-- ==== Sys2Proof/Word.lean ====
section
/-! DEFINITION. The word types of the block (00_scope.md R9): bytes and unsigned 16- and 32-bit values. -/

namespace Sys2Proof

/-- A byte, an unsigned value 0..255 (R9). -/
abbrev Byte := BitVec 8

/-- An unsigned 16-bit value (R9); arithmetic is modulo 2^16. -/
abbrev U16 := BitVec 16

/-- An unsigned 32-bit value (R9); arithmetic is modulo 2^32. -/
abbrev U32 := BitVec 32

end Sys2Proof
end

