-- ==== Sys2Proof/Config.lean ====
section
/-! DEFINITION. The implementation parameters of 00_scope.md R7, their legal ranges (R8), and the fixed
codes of the wire frame (30_encoding.md R72 to R74). -/

namespace Sys2Proof

/-- The five parameters of the CRC algorithm (00_scope.md R7, 40_crc_engine.md R101). The width is fixed
at 32. `init` is in the unreflected register form of R102. -/
structure CrcParams where
  poly : U32
  init : U32
  refin : Bool
  refout : Bool
  xorout : U32
deriving DecidableEq, Repr

/-- The parameters a configuration chooses (00_scope.md R7). They are held in the state and no step
writes them (10_state.md R35, D26; log 1). -/
structure Params where
  crc : CrcParams
  maxChunk : Nat
  maxAttempts : Nat
deriving DecidableEq, Repr

/-- The default CRC instance of R7, CRC-32/ISO-HDLC: the spec uses it for its vectors only (log 1). -/
def CrcParams.isoHdlc : CrcParams :=
  { poly := 0x04C11DB7, init := 0xFFFFFFFF, refin := true, refout := true, xorout := 0xFFFFFFFF }

/-- The values R7 names: the default CRC instance, 512 and 3 (log 1). -/
def Params.default : Params :=
  { crc := CrcParams.isoHdlc, maxChunk := 512, maxAttempts := 3 }

/-- The parameter constraints of R8: 1 <= MAX_CHUNK <= 65535, 1 <= MAX_ATTEMPTS <= 255, CRC_POLY[0] = 1. -/
def Params.legal (p : Params) : Bool :=
  decide (1 ≤ p.maxChunk) && decide (p.maxChunk ≤ 65535) &&
    decide (1 ≤ p.maxAttempts) && decide (p.maxAttempts ≤ 255) && p.crc.poly.getLsbD 0

namespace Config

/-- RESPONSE_TIMEOUT (R7): OPEN and "never given a number (the model has no time)". It has no body: no
proof can learn its value, and no step reads it, because a timeout is an answer of the transport
(20_memory.md R55, D16; log 3). -/
opaque responseTimeout : Nat

/-- MAX_IMAGE (R7): 2^32 − 1, the largest image the u32 `image_size` field can announce. -/
def maxImage : Nat := 4294967295

/-- CANCEL_CODE (R7, D5): the Command payload byte meaning Cancel (log 2). -/
def cancelCode : Byte := 0x02

/-- RSP_FRAME_LEN (30_encoding.md R86). -/
def rspFrameLen : Nat := 10

/-- The start-of-frame marker (R72). -/
def sof : Byte := 0xAA

/-- The end-of-frame marker (R73). -/
def eof : Byte := 0xBB

/-- Type codes (R74). -/
def typeCommand : Byte := 0x00
def typeData : Byte := 0x01
def typeHeader : Byte := 0x02
def typeResponse : Byte := 0x03

/-- Command codes Start and End (R77). -/
def codeStart : Byte := 0x00
def codeEnd : Byte := 0x01

/-- Response codes (R80). -/
def codeAck : Byte := 0x00
def codeNack : Byte := 0x01

end Config

end Sys2Proof
end

