-- ==== Sys2Proof/Machine/Bytes.lean ====
section
/-! DEFINITION. Byte sequences, little-endian fields and bit reversal (00_scope.md R10, 20_memory.md R58). -/

namespace Sys2Proof.Machine

/-- `LE16(v) = [v[7:0], v[15:8]]` (R10). -/
def le16 (v : U16) : List Byte :=
  [v.extractLsb' 0 8, v.extractLsb' 8 8]

/-- `LE32(v)`, least significant byte first (R10). -/
def le32 (v : U32) : List Byte :=
  [v.extractLsb' 0 8, v.extractLsb' 8 8, v.extractLsb' 16 8, v.extractLsb' 24 8]

/-- `rdLE16(s, i) = s[i] | (s[i+1] << 8)` (R10). Every use has both bytes inside `s`. -/
def rdLE16 (s : List Byte) (i : Nat) : U16 :=
  (s.getD i 0).setWidth 16 ||| ((s.getD (i + 1) 0).setWidth 16 <<< 8)

/-- `rdLE32(s, i)` (R10). Every use has the four bytes inside `s`. -/
def rdLE32 (s : List Byte) (i : Nat) : U32 :=
  (s.getD i 0).setWidth 32 ||| ((s.getD (i + 1) 0).setWidth 32 <<< 8) |||
    ((s.getD (i + 2) 0).setWidth 32 <<< 16) ||| ((s.getD (i + 3) 0).setWidth 32 <<< 24)

/-- `s[i..j]`, indices i to j inclusive; empty when j < i (R10). -/
def slice (s : List Byte) (i j : Nat) : List Byte :=
  (s.drop i).take (j + 1 - i)

/-- `zeros(n)` (R10). -/
def zeros (n : Nat) : List Byte := List.replicate n 0

/-- `reflect8(b)`: bit i moves to bit 7 − i (R10). -/
def reflect8 (b : Byte) : Byte := b.reverse

/-- `reflect32(v)`: bit i moves to bit 31 − i (R10). -/
def reflect32 (v : U32) : U32 := v.reverse

end Sys2Proof.Machine
end

