-- ==== Sys2Proof/Machine/Crc.lean ====
section
/-! DEFINITION. The CRC engine's functions (40_crc_engine.md R102 to R105): one shift, one byte, the final
reflection and XOR, and a whole computation. The operations on the register `crc_reg` are in Ops. -/

namespace Sys2Proof.Machine

/-- One shift of the division step of R103: the bit shifted out of bit 31 decides whether POLY is added. -/
def crcShift (poly r : U32) : U32 :=
  if r.msb then (r <<< 1) ^^^ poly else r <<< 1

/-- `n` shifts. -/
def crcShifts (poly : U32) : Nat → U32 → U32
  | 0, r => r
  | n + 1, r => crcShifts poly n (crcShift poly r)

/-- CRC_UPDATE(b) (R103): the register after one input byte. -/
def crcUpdate (c : CrcParams) (r : U32) (b : Byte) : U32 :=
  let d := if c.refin then reflect8 b else b
  crcShifts c.poly 8 (r ^^^ (d.setWidth 32 <<< 24))

/-- CRC_FINAL (R104): the result read from the register. -/
def crcFinal (c : CrcParams) (r : U32) : U32 :=
  (if c.refout then reflect32 r else r) ^^^ c.xorout

/-- The register that CRC_COMPUTE(s) leaves (R105): CRC_INIT, then CRC_UPDATE of every byte in wire order. -/
def crcRun (c : CrcParams) (s : List Byte) : U32 :=
  s.foldl (crcUpdate c) c.init

/-- CRC_COMPUTE(s), which implements CRC_FN (R100, R105). -/
def crcCompute (c : CrcParams) (s : List Byte) : U32 :=
  crcFinal c (crcRun c s)

end Sys2Proof.Machine
end

