-- ==== Sys2Proof/Syntax.lean ====
section
/-! DEFINITION. The syntax: the seven packet kinds of 30_encoding.md R83 (one constructor for each row of
opcode_table.json), the decoded packet, and the codec's error kinds. -/

namespace Sys2Proof

/-- The seven packet kinds (30_encoding.md R83). HEADER carries its four 32-bit fields (R78): the block
writes the two reserved ones as zero, and DECODE accepts any value in them (41_packet_codec.md R137). -/
inductive Instr where
  /-- CMD_START (41_packet_codec.md R122) -/
  | cmdStart
  /-- CMD_END (R123) -/
  | cmdEnd
  /-- CMD_CANCEL (R124) -/
  | cmdCancel
  /-- HEADER (R125) -/
  | header (size checksum reserved1 reserved2 : U32)
  /-- DATA (R126) -/
  | data (chunk : List Byte)
  /-- RSP_ACK (R127) -/
  | rspAck
  /-- RSP_NACK (R128) -/
  | rspNack
deriving DecidableEq, Repr

/-- A decoded packet (41_packet_codec.md R136). -/
structure Packet where
  type : Byte
  length : U16
  payload : List Byte
  checksum : U32
deriving DecidableEq, Repr

/-- The three errors of DECODE (41_packet_codec.md R129, 60_exceptions.md R201). -/
inductive DecodeError where
  /-- `FramingError`: R130, R131, R133, R135 -/
  | framing
  /-- `LengthMismatchError`: R132 -/
  | lengthMismatch
  /-- `IntegrityError`: R134 -/
  | integrity
deriving DecidableEq, Repr

/-- Why bytes are not read as a packet kind. -/
inductive DecodeReject where
  /-- DECODE returned an error (R129). -/
  | error (k : DecodeError)
  /-- DECODE accepted a packet that is none of the seven kinds: a reserved Command or Response code or a
  payload length no kind has (R84, R137). -/
  | noKind
deriving DecidableEq, Repr

end Sys2Proof
end

