-- ==== Sys2Proof/Machine/Operands.lean ====
section
/-! DEFINITION. The operand forms of the seven packet kinds: the Type code and the payload each kind has on
the wire (30_encoding.md R74, R77 to R80), and the kind that a Type code and a payload stand for (R83). -/

namespace Sys2Proof.Machine

/-- The Type code of a kind (R74). -/
def typeCode : Instr → Byte
  | .cmdStart => Config.typeCommand
  | .cmdEnd => Config.typeCommand
  | .cmdCancel => Config.typeCommand
  | .header _ _ _ _ => Config.typeHeader
  | .data _ => Config.typeData
  | .rspAck => Config.typeResponse
  | .rspNack => Config.typeResponse

/-- The payload of a kind: the Command code (R77), the four little-endian Header fields (R78), the Data
bytes (R79), the Response code (R80). -/
def payload : Instr → List Byte
  | .cmdStart => [Config.codeStart]
  | .cmdEnd => [Config.codeEnd]
  | .cmdCancel => [Config.cancelCode]
  | .header size checksum reserved1 reserved2 =>
      le32 size ++ le32 checksum ++ le32 reserved1 ++ le32 reserved2
  | .data chunk => chunk
  | .rspAck => [Config.codeAck]
  | .rspNack => [Config.codeNack]

/-- The kind of a packet (R82, R83), none where the packet is of no kind (R84). -/
def kindOf (type : Byte) (body : List Byte) : Option Instr :=
  if type = Config.typeCommand then
    if body = [Config.codeStart] then some .cmdStart
    else if body = [Config.codeEnd] then some .cmdEnd
    else if body = [Config.cancelCode] then some .cmdCancel
    else none
  else if type = Config.typeData then some (.data body)
  else if type = Config.typeHeader then
    if body.length = 16 then
      some (.header (rdLE32 body 0) (rdLE32 body 4) (rdLE32 body 8) (rdLE32 body 12))
    else none
  else if type = Config.typeResponse then
    if body = [Config.codeAck] then some .rspAck
    else if body = [Config.codeNack] then some .rspNack
    else none
  else none

end Sys2Proof.Machine
end

