-- ==== Sys2Proof/WellFormed.lean ====
section
/-! DEFINITION. Which packet kinds ENCODE accepts (41_packet_codec.md R121). -/

namespace Sys2Proof

/-- R121 read on a packet kind: a Data payload has at most MAX_CHUNK bytes. The other kinds have one legal
code, or a payload of exactly sixteen bytes, by the shape of their constructors. -/
def Instr.wf (p : Params) : Instr → Bool
  | .cmdStart => true
  | .cmdEnd => true
  | .cmdCancel => true
  | .header _ _ _ _ => true
  | .data chunk => decide (chunk.length ≤ p.maxChunk)
  | .rspAck => true
  | .rspNack => true

end Sys2Proof
end

