-- ==== Sys2Proof/Decode.lean ====
section
/-! DEFINITION. The packet codec (41_packet_codec.md): DECODE and the reading of a packet kind, then ENCODE
and the frame of a packet kind, then the reading of one row of opcode_table.json. -/

namespace Sys2Proof

open Machine

/-- The bytes of a frame that the CRC covers, offsets 1 to 3 + L (30_encoding.md R76). -/
def coveredBytes (b : List Byte) : List Byte :=
  slice b 1 (3 + (rdLE16 b 2).toNat)

/-- Checks 1 to 4 of DECODE (R130 to R133), in that order; none where all four hold. -/
def decodeShapeError (b : List Byte) : Option DecodeError :=
  if b.head? ≠ some Config.sof then some .framing
  else if b.length < 9 then some .framing
  else if b.length - 9 ≠ (rdLE16 b 2).toNat then some .lengthMismatch
  else if b.getLast? ≠ some Config.eof then some .framing
  else none

/-- DECODE(b) (R129): the checks R130 to R135 in order, then the packet of R136. No other check is made
(R137). -/
def decodeFrame (c : CrcParams) (b : List Byte) : Except DecodeError Packet :=
  match decodeShapeError b with
  | some k => .error k
  | none =>
    let len := rdLE16 b 2
    let stored := rdLE32 b (4 + len.toNat)
    if crcCompute c (coveredBytes b) ≠ stored then .error .integrity
    else if Config.typeResponse < b.getD 1 0 then .error .framing
    else .ok { type := b.getD 1 0, length := len, payload := slice b 4 (3 + len.toNat), checksum := stored }

/-- The CRC register that DECODE(b) leaves: a DECODE that succeeds leaves what its CRC_COMPUTE left there
(40_crc_engine.md R105, R129), and "a failing DECODE leaves every register of 10_state.md as it was" (R141);
log 11. -/
def decodeCrcReg (c : CrcParams) (b : List Byte) (reg : U32) : U32 :=
  match decodeFrame c b with
  | .ok _ => crcRun c (coveredBytes b)
  | .error _ => reg

/-- The packet kind that a frame's bytes stand for: DECODE, then the kind (30_encoding.md R82, R83). Total
on any bytes, rejecting by name. -/
def decode (p : Params) (b : List Byte) : Except DecodeReject Instr :=
  match decodeFrame p.crc b with
  | .error k => .error (.error k)
  | .ok pkt =>
    match kindOf pkt.type pkt.payload with
    | some i => .ok i
    | none => .error .noKind

/-! ### The encoder -/

/-- The bytes the CRC covers, before they are framed: `[type] ‖ LE16(L) ‖ payload` (R120). -/
def frameBody (type : Byte) (body : List Byte) : List Byte :=
  type :: (le16 (BitVec.ofNat 16 body.length) ++ body)

/-- The frame around a body (R70, R120): SOF, body, little-endian CRC, EOF. -/
def buildFrame (c : CrcParams) (type : Byte) (body : List Byte) : List Byte :=
  Config.sof :: (frameBody type body ++ le32 (crcCompute c (frameBody type body)) ++ [Config.eof])

/-- `WellFormed(type, payload)` (R121). -/
def encodeAccepts (p : Params) (type : Byte) (body : List Byte) : Bool :=
  if type = Config.typeCommand then
    body == [Config.codeStart] || body == [Config.codeEnd] || body == [Config.cancelCode]
  else if type = Config.typeHeader then decide (body.length = 16)
  else if type = Config.typeData then decide (body.length ≤ p.maxChunk)
  else if type = Config.typeResponse then body == [Config.codeAck] || body == [Config.codeNack]
  else false

/-- ENCODE(type, payload) (R120), none where it answers `EncodeRefused` (R121). -/
def encodePacket (p : Params) (type : Byte) (body : List Byte) : Option (List Byte) :=
  if encodeAccepts p type body then some (buildFrame p.crc type body) else none

/-- The frame ENCODE builds for a packet kind (R122 to R128). -/
def encode (p : Params) (i : Instr) : Option (List Byte) :=
  encodePacket p (typeCode i) (payload i)

/-- The CRC register that ENCODE of a packet kind leaves (R108, R120). -/
def encodeCrcReg (p : Params) (i : Instr) : U32 :=
  crcRun p.crc (frameBody (typeCode i) (payload i))

/-- A frame of the kind as it stands in a byte stream, whoever built it: R137 accepts a Data payload
longer than MAX_CHUNK. None where the 16-bit Length field cannot say the payload's length (R75). -/
def wireFrame (p : Params) (i : Instr) : Option (List Byte) :=
  if (payload i).length < 65536 then some (buildFrame p.crc (typeCode i) (payload i)) else none

/-! ### One row of opcode_table.json -/

/-- The `n` low bytes of `w`, least significant first. -/
def bytesLow : Nat → Nat → List Byte
  | 0, _ => []
  | n + 1, w => BitVec.ofNat 8 w :: bytesLow n (w / 256)

/-- A list without its leading zero bytes, which are put behind it. -/
def zerosLast : List Byte → List Byte
  | [] => []
  | b :: rest => if b = 0 then zerosLast rest ++ [0] else b :: rest

/-- The first bytes of a frame that a table row's word gives. The table reads a row as one number whose
leftmost byte is the first on the wire (R82); a word numbered with its first byte in bits 7..0 is read
too. Only one of the readings begins with SOF, as every frame does (R72); log 16. -/
def tableBytes (nbits w : Nat) : List Byte :=
  let low := bytesLow (nbits / 8) w
  let high := low.reverse
  if high.head? = some Config.sof then high
  else if low.head? = some Config.sof then low
  else zerosLast high

/-- The frame that begins with `b`: bytes `b` gives stand as they are, operand bytes beyond it are zero, and
the checksum and EOF beyond it are those ENCODE stamps (R120), because they are no operands of the
packet (log 16). -/
def completeFrame (c : CrcParams) (b : List Byte) : List Byte :=
  let head := b ++ zeros 4
  let len := (rdLE16 head 2).toNat
  let body := slice (b ++ zeros (4 + len)) 4 (3 + len)
  b ++ (buildFrame c (head.getD 1 0) body).drop b.length

/-- The frame of a table row's word at the default parameters, and the kind it decodes to. -/
def tableFrame (nbits w : Nat) : List Byte :=
  completeFrame CrcParams.isoHdlc (tableBytes nbits w)

/-- The instruction the decoder reads from a row of opcode_table.json (log 16). -/
def decodeTableWord (nbits w : Nat) : Option Instr :=
  match decode Params.default (tableFrame nbits w) with
  | .ok i => some i
  | .error _ => none

end Sys2Proof
end

