-- ==== Sys2Proof/Machine/State.lean ====
section
/-! DEFINITION. The state of the block (10_state.md): its registers, its parameters, its ports and the
environment-owned byte spaces, all plain data; its value after reset; and the reasons a step can stop. -/

namespace Sys2Proof.Machine

/-- The session states (10_state.md R22). Code 7 is unused and never written, so it has no constructor
(U19, log 15). -/
inductive SessionState where
  | idle
  | starting
  | awaitHeaderAck
  | sendingData
  | awaitEndAck
  | complete
  | failed
deriving DecidableEq, Repr

/-- The phase within states 1 to 4: TX = the frame is to be written, RX = one response read is due (R23). -/
inductive Phase where
  | tx
  | rx
deriving DecidableEq, Repr

/-- The terminal causes (60_exceptions.md R203). Code 7 is unused and never written (log 15). -/
inductive Cause where
  | none
  | transport
  | timeout
  | deviceRejected
  | malformedResponse
  | file
  | cancelled
deriving DecidableEq, Repr

/-- Why a response is malformed (60_exceptions.md R202). -/
inductive Malformed where
  | framing
  | lengthMismatch
  | integrity
  | wrongType
  | badCode
deriving DecidableEq, Repr

/-- The outcome of one attempt (60_exceptions.md R202). -/
inductive AttemptOutcome where
  | ack
  | nack
  | timeout
  | malformed (k : Malformed)
deriving DecidableEq, Repr

/-- The terminal result (10_state.md R37). -/
inductive SessionResult where
  | complete
  | failed (c : Cause)
deriving DecidableEq, Repr

/-- The image source a begin request carries (20_memory.md R51). -/
inductive Source where
  | unreadable
  | image (bytes : List Byte)
deriving DecidableEq, Repr

/-- The `tx_status` port (R37). With TransportError comes the oracle's draw of how many bytes of the frame
had been sent (20_memory.md R54); a draw beyond the frame's length is all of it. -/
inductive TxStatus where
  | ok
  | error (sent : Nat)
deriving DecidableEq, Repr

/-- What the receive stream delivers, in order (20_memory.md R55): a byte, the deadline passing, a hard I/O
error. With the last two comes the oracle's draw of how many of the bytes that had arrived the ended read
consumed (R56); log 5. -/
inductive RxEvent where
  | byte (b : Byte)
  | timeout (consumed : Nat)
  | error (consumed : Nat)
deriving DecidableEq, Repr

/-- What the output ports carry (R37): a byte sequence on `tx`, a pulse of `close`, `progress`, `result`. -/
inductive PortEvent where
  | tx (bytes : List Byte)
  | close
  | progress (bytesSent : U32)
  | result (r : SessionResult)
deriving DecidableEq, Repr

/-- The input ports one step samples (R37): `reset`, `cancel`, a pending begin request, `tx_status`; and
what the transport delivers to the receive stream when these levels are applied (log 4). -/
structure Inputs where
  reset : Bool
  cancel : Bool
  beginReq : Option Source
  txStatus : TxStatus
  arrive : List RxEvent
deriving DecidableEq, Repr

/-- No input asserted; the transport accepts writes (30_encoding.md R87: "An event not listed means the
TxWrite returns Ok"); log 4. -/
def Inputs.quiet : Inputs :=
  { reset := false, cancel := false, beginReq := none, txStatus := .ok, arrive := [] }

/-- The state. `params` are the parameters of 00_scope.md R7; the registers are those of 10_state.md R21 to
R33; `inp`, `later`, `rx`, `img` are owned by the environment (R20, R34); `outs` is what the output ports
have carried (R37). -/
structure State where
  params : Params
  crcReg : U32
  st : SessionState
  ph : Phase
  attempt : Byte
  imgSize : U32
  imgCrc : U32
  bytesSent : U32
  chunkLen : U16
  frame : List Byte
  cause : Cause
  txAny : Bool
  own : Bool
  inp : Inputs
  later : List Inputs
  rx : List RxEvent
  img : List Byte
  outs : List PortEvent
deriving DecidableEq, Repr

/-- Why the machine stops with a fault. -/
inductive Fault where
  /-- ImgRead asked for bytes outside the image: raised by the shared ImgRead of ADVANCE, and never issued
  by a session (20_memory.md R52, U17: "A model faults on such a read"). Safe. -/
  | imageRange
deriving DecidableEq, Repr

/-- Why the model refuses. -/
inductive Refusal where
  /-- The arm of `exec` has no meaning yet: raised by `exec` alone; no arm uses it. Safe. -/
  | notModelled (mnemonic : String)
  /-- ENCODE refused a packet that is not well-formed (41_packet_codec.md R121, U18): raised where a frame
  is built; unreachable in a session (60_exceptions.md R210). Safe. -/
  | encodeRefused
  /-- The parameters are outside the ranges of 00_scope.md R8: "A model refuses a configuration outside
  these ranges". Raised by `step` and by every meaning. Safe. -/
  | illegalConfig
deriving DecidableEq, Repr

/-- The machine right after RESET with the parameters `p`: every register at the value of 10_state.md R38
and 70_reset_and_hazards.md R230, no input asserted, nothing on any stream. -/
def State.resetWith (p : Params) : State :=
  { params := p, crcReg := p.crc.init, st := .idle, ph := .tx, attempt := 0, imgSize := 0, imgCrc := 0,
    bytesSent := 0, chunkLen := 0, frame := [], cause := .none, txAny := false, own := false,
    inp := Inputs.quiet, later := [], rx := [], img := [], outs := [] }

/-- The machine right after reset, at the parameter values the spec names (log 1). -/
def State.reset : State := State.resetWith Params.default

end Sys2Proof.Machine
end

