-- ==== Sys2Proof/Machine/Codes.lean ====
section
/-! DEFINITION. The numeric codes of states, phases, decode results and causes (10_state.md R22, R23;
60_exceptions.md R201, R203), the two status ports of R37, and the classes of session states. -/

namespace Sys2Proof.Machine

/-- The 3-bit state code (R22). -/
def SessionState.code : SessionState → BitVec 3
  | .idle => 0
  | .starting => 1
  | .awaitHeaderAck => 2
  | .sendingData => 3
  | .awaitEndAck => 4
  | .complete => 5
  | .failed => 6

/-- The terminal states COMPLETE and FAILED (R22). -/
def SessionState.terminal : SessionState → Bool
  | .complete | .failed => true
  | .idle | .starting | .awaitHeaderAck | .sendingData | .awaitEndAck => false

/-- States 1 to 4, in which a packet is exchanged (R22, R23). -/
def SessionState.active : SessionState → Bool
  | .starting | .awaitHeaderAck | .sendingData | .awaitEndAck => true
  | .idle | .complete | .failed => false

/-- The 1-bit phase code (R23). -/
def Phase.code : Phase → BitVec 1
  | .tx => 0
  | .rx => 1

/-- The 3-bit cause code (60_exceptions.md R203). -/
def Cause.code : Cause → BitVec 3
  | .none => 0
  | .transport => 1
  | .timeout => 2
  | .deviceRejected => 3
  | .malformedResponse => 4
  | .file => 5
  | .cancelled => 6

/-- The numeric result of DECODE (60_exceptions.md R201). -/
def decodeResultCode : Except DecodeError Packet → Nat
  | .ok _ => 0
  | .error .framing => 1
  | .error .lengthMismatch => 2
  | .error .integrity => 3

/-- The `st` output port (10_state.md R37). -/
def stPort (s : State) : BitVec 3 := s.st.code

/-- The `cause` output port (R37). -/
def causePort (s : State) : BitVec 3 := s.cause.code

/-- The transmit stream TX (20_memory.md R53): every byte written, in order. -/
def txStream (s : State) : List Byte :=
  s.outs.flatMap fun e => match e with
    | .tx bytes => bytes
    | .close => []
    | .progress _ => []
    | .result _ => []

end Sys2Proof.Machine
end

