-- ==== Sys2Proof/Machine/Ops.lean ====
section
/-! DEFINITION. The shared operations on the state: outcomes, the CRC register, the image, the two streams,
ENCODE into the frame buffer, the failure procedure and RESET. -/

namespace Sys2Proof.Machine

/-- The outcome of a step or of a part of one. -/
abbrev StepOutcome := Host.Outcome State Fault Refusal

/-- An outcome with its next state changed. -/
def mapNext (f : State → State) : StepOutcome → StepOutcome
  | .next s => .next (f s)
  | .fault r => .fault r
  | .refused r => .refused r

/-- The refusal of a configuration outside the ranges (00_scope.md R8). -/
def withLegalParams (s : State) (k : StepOutcome) : StepOutcome :=
  if s.params.legal then k else .refused .illegalConfig

/-! ### The CRC engine's operations on `crc_reg` (40_crc_engine.md) -/

/-- CRC_INIT (R102). -/
def opCrcInit (s : State) : State := { s with crcReg := s.params.crc.init }

/-- CRC_UPDATE(b) (R103). -/
def opCrcUpdate (b : Byte) (s : State) : State := { s with crcReg := crcUpdate s.params.crc s.crcReg b }

/-- CRC_FINAL (R104): a result; `crc_reg` is unchanged. -/
def opCrcFinal (s : State) : U32 := crcFinal s.params.crc s.crcReg

/-- CRC_UPDATE of every byte of a sequence, in wire order. -/
def opCrcUpdates : List Byte → State → State
  | [], s => s
  | b :: rest, s => opCrcUpdates rest (opCrcUpdate b s)

/-- CRC_COMPUTE(s) (R105): the result and the state with the register it leaves. -/
def opCrcCompute (bytes : List Byte) (s : State) : U32 × State :=
  let done := opCrcUpdates bytes (opCrcInit s)
  (opCrcFinal done, done)

/-! ### Byte spaces -/

/-- ImgRead(off, n) (20_memory.md R51); none outside the image (R52). -/
def imgRead (s : State) (off n : Nat) : Option (List Byte) :=
  if off + n ≤ s.img.length then some ((s.img.drop off).take n) else none

/-- An output port event (10_state.md R37), after all earlier ones (R63). -/
def emit (e : PortEvent) (s : State) : State := { s with outs := s.outs ++ [e] }

/-- What of a frame reaches TX: all of it when the write is Ok, the drawn prefix when it fails (R53, R54). -/
def sentBytes (status : TxStatus) (bytes : List Byte) : List Byte :=
  match status with
  | .ok => bytes
  | .error sent => bytes.take sent

/-- TxWrite(bytes) (R53, R54); its result is the `tx_status` port. -/
def txWrite (bytes : List Byte) (s : State) : State :=
  emit (.tx (sentBytes s.inp.txStatus bytes)) s

/-- TxClose() (00_scope.md R11). -/
def txClose (s : State) : State := emit .close s

/-- The answer to an RxReadExact, with what stays in the receive stream. -/
inductive ReadAnswer where
  | bytes (b : List Byte) (rest : List RxEvent)
  | timeout (rest : List RxEvent)
  | error (rest : List RxEvent)
  /-- The transport has not answered yet. -/
  | waiting
deriving DecidableEq, Repr

/-- RxReadExact: `n` more bytes are due and `arrived` have come (20_memory.md R55). A read that ends in
Timeout or TransportError leaves the arrived bytes that it did not consume (R56). Nothing is skipped (R57). -/
def readFrom (n : Nat) (arrived : List Byte) : List RxEvent → ReadAnswer
  | [] => if n = 0 then .bytes arrived [] else .waiting
  | e :: rest =>
    if n = 0 then .bytes arrived (e :: rest)
    else match e with
      | .byte b => readFrom (n - 1) (arrived ++ [b]) rest
      | .timeout consumed => .timeout ((arrived.drop consumed).map .byte ++ rest)
      | .error consumed => .error ((arrived.drop consumed).map .byte ++ rest)

/-- RxReadExact(n) on a receive stream. -/
def rxReadExact (n : Nat) (stream : List RxEvent) : ReadAnswer := readFrom n [] stream

/-! ### Building frames -/

/-- ENCODE of a packet kind inside a step: the frame is given to `k` with the CRC register ENCODE leaves
(R108, R120); a packet that is not well-formed is refused (R121). -/
def encodeInto (i : Instr) (k : List Byte → State → StepOutcome) (s : State) : StepOutcome :=
  match encode s.params i with
  | some f => k f { s with crcReg := encodeCrcReg s.params i }
  | none => .refused .encodeRefused

/-- The current packet becomes `i`: its frame enters the frame buffer and the state becomes `st`. -/
def loadFrame (i : Instr) (st : SessionState) (s : State) : StepOutcome :=
  encodeInto i (fun f t => .next { t with frame := f, st := st }) s

/-- The Data frame of the `n` image bytes at `off` becomes the current packet (42_transfer_session.md R172,
R173). -/
def loadChunk (off n : Nat) (s : State) : StepOutcome :=
  match imgRead s off n with
  | none => .fault .imageRange
  | some bytes => loadFrame (.data bytes) .sendingData { s with chunkLen := BitVec.ofNat 16 n }

/-! ### The failure procedure and the way out of it -/

/-- FAIL(c) (42_transfer_session.md R178, 60_exceptions.md R213), the one failure procedure of every failing
path: the cause is saved, the session ends, the transport is released and the result is pulsed. It is given
the registers of the failing step's start, `crc_reg` among them, but for the `attempt` and `tx_any` of a
failing TX step (R213; log 11). -/
def failWith (c : Cause) (s : State) : State :=
  emit (.result (.failed c)) { s with cause := c, st := .failed, own := false }

/-- RESET (70_reset_and_hazards.md R230), the only way out of FAILED and COMPLETE (R214): every register of
10_state.md at its reset value; the parameters, the input ports and the streams stay as they are (log 18).
DESIGN CHOICE: a read that RESET abandons during an RX wait has consumed none of the bytes that had arrived,
and these stay in the receive stream (log 29). -/
def resetRegs (s : State) : State :=
  { s with crcReg := s.params.crc.init, st := .idle, ph := .tx, attempt := 0, imgSize := 0, imgCrc := 0,
           bytesSent := 0, chunkLen := 0, frame := [], cause := .none, txAny := false, own := false }

end Sys2Proof.Machine
end

