-- ==== Sys2Proof/Machine/Session.lean ====
section
/-! DEFINITION. The transfer session (42_transfer_session.md): BEGIN, TX, RX with CLASSIFY, ADVANCE and
RETRY_OR_FAIL, and CANCEL; and the exchange of one packet that the seven meanings share. -/

namespace Sys2Proof.Machine

/-- BEGIN(img) (R162); an unreadable or too large image is FILE (R163). -/
def beginSession (src : Source) (s : State) : StepOutcome :=
  match src with
  | .unreadable => .next (failWith .file s)
  | .image bytes =>
    if Config.maxImage < bytes.length then .next (failWith .file s)
    else
      let (crc, t) := opCrcCompute bytes s
      loadFrame .cmdStart .starting
        { t with img := bytes, imgSize := BitVec.ofNat 32 bytes.length, imgCrc := crc, bytesSent := 0,
                 chunkLen := 0, attempt := 0, ph := .tx, txAny := false, own := true, cause := .none }

/-- TX (R165) of the frame `f`: the attempt is counted, the frame is written, and a TransportError is
fatal at once (R176). -/
def sendFrame (f : List Byte) (s : State) : State :=
  let t := txWrite f { s with attempt := s.attempt + 1, txAny := true }
  match s.inp.txStatus with
  | .ok => { t with ph := .rx }
  | .error _ => failWith .transport t

/-- The malformed outcome a DECODE error stands for (R167). -/
def malformedOf : DecodeError → Malformed
  | .framing => .framing
  | .lengthMismatch => .lengthMismatch
  | .integrity => .integrity

/-- CLASSIFY(s) (R167). -/
def classify (c : CrcParams) (b : List Byte) : AttemptOutcome :=
  match decodeFrame c b with
  | .error k => .malformed (malformedOf k)
  | .ok pkt =>
    if pkt.type ≠ Config.typeResponse then .malformed .wrongType
    else if pkt.payload = [Config.codeAck] then .ack
    else if pkt.payload = [Config.codeNack] then .nack
    else .malformed .badCode

/-- CAUSE(o) (R170). ACK has no cause: RETRY_OR_FAIL never meets it. -/
def causeOf : AttemptOutcome → Cause
  | .ack => .none
  | .nack => .deviceRejected
  | .timeout => .timeout
  | .malformed _ => .malformedResponse

/-- RETRY_OR_FAIL(o) (R169): the same frame again, or the cause of this last outcome. `reg` is the CRC
register that the attempt's DECODE left, which a failing step does not keep (60_exceptions.md R213;
log 11). -/
def retryOrFail (o : AttemptOutcome) (reg : U32) (s : State) : State :=
  if s.attempt.toNat < s.params.maxAttempts then { s with ph := .tx, crcReg := reg }
  else failWith (causeOf o) s

/-- ADVANCE from STARTING (R171). -/
def advanceStarting (s : State) : StepOutcome :=
  loadFrame (.header s.imgSize s.imgCrc 0 0) .awaitHeaderAck s

/-- ADVANCE from AWAIT_HEADER_ACK (R172). -/
def advanceHeader (s : State) : StepOutcome :=
  if s.imgSize = 0 then loadFrame .cmdEnd .awaitEndAck s
  else loadChunk 0 (min s.params.maxChunk s.imgSize.toNat) s

/-- ADVANCE from SENDING_DATA (R173). -/
def advanceData (s : State) : StepOutcome :=
  let sent := s.bytesSent + s.chunkLen.setWidth 32
  let t := emit (.progress sent) { s with bytesSent := sent }
  if sent = s.imgSize then loadFrame .cmdEnd .awaitEndAck t
  else loadChunk sent.toNat (min s.params.maxChunk (s.imgSize - sent).toNat) t

/-- ADVANCE from AWAIT_END_ACK (R174). -/
def advanceEnd (s : State) : StepOutcome :=
  .next (emit (.result .complete) { s with st := .complete, own := false })

/-- ADVANCE (R168), the ACK path. Outside states 1 to 4 no packet is current and nothing changes (log 26). -/
def advance (s : State) : StepOutcome :=
  let t := { s with attempt := 0, ph := .tx }
  match s.st with
  | .starting => advanceStarting t
  | .awaitHeaderAck => advanceHeader t
  | .sendingData => advanceData t
  | .awaitEndAck => advanceEnd t
  | .idle => .next s
  | .complete => .next s
  | .failed => .next s

/-- RX after `Bytes(b)` (R166): DECODE leaves its CRC register (R108, R141), and the outcome advances the
session or goes to RETRY_OR_FAIL. -/
def receive (b : List Byte) (s : State) : StepOutcome :=
  let reg := decodeCrcReg s.params.crc b s.crcReg
  let o := classify s.params.crc b
  if o = .ack then advance { s with crcReg := reg } else .next (retryOrFail o reg s)

/-- RX (R166): one RxReadExact(10). While the transport has not answered the step waits and nothing
changes (R160, R221; log 21). -/
def receiveStep (s : State) : StepOutcome :=
  match rxReadExact Config.rspFrameLen s.rx with
  | .waiting => .next s
  | .error rest => .next (failWith .transport { s with rx := rest })
  | .timeout rest => .next (retryOrFail .timeout s.crcReg { s with rx := rest })
  | .bytes b rest => receive b { s with rx := rest }

/-- CANCEL (R177): the Cancel frame once if protocol traffic has begun, whatever its write returns; the
close if the session owns the transport; then FAIL(CANCELLED), with `crc_reg` as it was when the step began
(60_exceptions.md R213; log 11). DESIGN CHOICE: a read that the cancel abandons has consumed none of the
bytes that had arrived, and these stay in the receive stream across the close (log 29). -/
def cancelSession (s : State) : StepOutcome :=
  if s.st = .idle then .next (failWith .cancelled s)
  else
    let finish (t : State) : StepOutcome :=
      .next (failWith .cancelled (if t.own then txClose t else t))
    if s.txAny then encodeInto .cmdCancel (fun f _ => finish (txWrite f s)) s else finish s

/-- The exchange step of one packet kind (log 7). In states 1 to 4, phase TX: the frame of `i` stands in the
frame buffer and is written (R165). Phase RX: the frame of `i` stands at the head of the receive stream and
is read as the response (R166); a frame longer than a response leaves its surplus in the stream (R238). In
IDLE, COMPLETE and FAILED no frame is moved (R160). -/
def exchange (i : Instr) (s : State) : StepOutcome :=
  if s.st.active then
    match s.ph with
    | .tx =>
      match encode s.params i with
      | some f => .next (sendFrame f s)
      | none => .refused .encodeRefused
    | .rx =>
      match wireFrame s.params i with
      | some f => receiveStep { s with rx := f.map .byte ++ s.rx }
      | none => .refused .encodeRefused
  else .next s

end Sys2Proof.Machine
end

