-- ==== Sys2Proof/Machine/Commands.lean ====
section
/-! DEFINITION. The meanings of the Command packets CMD_START, CMD_END and CMD_CANCEL (41_packet_codec.md
R122 to R124). -/

namespace Sys2Proof.Machine

/-- CMD_START (R122): sent in phase TX; met as a response it is MALFORMED(WRONG_TYPE) (R167). -/
def execCmdStart (s : State) : StepOutcome :=
  withLegalParams s (exchange .cmdStart s)

/-- CMD_END (R123). -/
def execCmdEnd (s : State) : StepOutcome :=
  withLegalParams s (exchange .cmdEnd s)

/-- CMD_CANCEL (R124): with the cancel input asserted in states 0 to 4 it is the CANCEL step that sends it
(R177); otherwise the frame is exchanged as any other (log 8). -/
def execCmdCancel (s : State) : StepOutcome :=
  withLegalParams s
    (if s.inp.cancel && !s.st.terminal then cancelSession s else exchange .cmdCancel s)

end Sys2Proof.Machine
end

