-- ==== Sys2Proof/Machine/Responses.lean ====
section
/-! DEFINITION. The meanings of the Response packets RSP_ACK and RSP_NACK (41_packet_codec.md R127, R128). -/

namespace Sys2Proof.Machine

/-- RSP_ACK (R127): received in phase RX it is the ACK outcome and the session advances (R168). A session's
frame buffer never holds it in phase TX (log 9). -/
def execRspAck (s : State) : StepOutcome :=
  withLegalParams s (exchange .rspAck s)

/-- RSP_NACK (R128): received in phase RX it is the NACK outcome: retry or DEVICE_REJECTED (R169, R170). -/
def execRspNack (s : State) : StepOutcome :=
  withLegalParams s (exchange .rspNack s)

end Sys2Proof.Machine
end

