-- ==== Sys2Proof/Machine/Transfers.lean ====
section
/-! DEFINITION. The meanings of the HEADER and DATA packets (41_packet_codec.md R125, R126). -/

namespace Sys2Proof.Machine

/-- HEADER (R125): sent in phase TX. Its 25 bytes met as a response are read ten at a time (R86, R238). -/
def execHeader (size checksum reserved1 reserved2 : U32) (s : State) : StepOutcome :=
  withLegalParams s (exchange (.header size checksum reserved1 reserved2) s)

/-- DATA (R126): sent in phase TX, with at most MAX_CHUNK bytes (R121). -/
def execData (chunk : List Byte) (s : State) : StepOutcome :=
  withLegalParams s (exchange (.data chunk) s)

end Sys2Proof.Machine
end

