-- ==== Sys2Proof/Machine/Dispatch.lean ====
section
/-! DEFINITION. Which meaning runs which packet kind: one arm per constructor of Instr. -/

namespace Sys2Proof.Machine

def exec (i : Instr) (s : State) : Host.Outcome State Fault Refusal :=
  match i with
  | .cmdStart => Sys2Proof.Machine.execCmdStart s
  | .cmdEnd => Sys2Proof.Machine.execCmdEnd s
  | .cmdCancel => Sys2Proof.Machine.execCmdCancel s
  | .header size checksum reserved1 reserved2 => Sys2Proof.Machine.execHeader size checksum reserved1 reserved2 s
  | .data chunk => Sys2Proof.Machine.execData chunk s
  | .rspAck => Sys2Proof.Machine.execRspAck s
  | .rspNack => Sys2Proof.Machine.execRspNack s

end Sys2Proof.Machine
end

