-- ==== Sys2Proof/Machine/Select.lean ====
section
/-! DEFINITION. Which step is taken (42_transfer_session.md R160), and the packet it fetches: from the
frame buffer in phase TX, from the receive stream in phase RX. -/

namespace Sys2Proof.Machine

/-- The steps the block can take (R160). -/
inductive StepKind where
  | reset
  | noStep
  | cancel
  | begin (src : Source)
  | exchange
deriving DecidableEq, Repr

/-- The priority of R160: reset, terminal, cancel, BEGIN in IDLE, then the exchange of states 1 to 4. -/
def selectStep (s : State) : StepKind :=
  if s.inp.reset then .reset
  else if s.st.terminal then .noStep
  else if s.inp.cancel then .cancel
  else if s.st = .idle then
    match s.inp.beginReq with
    | some src => .begin src
    | none => .noStep
  else .exchange

/-- A begin request is taken from its port (R164; log 20). -/
def takeBegin (s : State) : State := { s with inp := { s.inp with beginReq := none } }

/-- The well-formed packet kind that a frame's bytes stand for. -/
def instrAt (p : Params) (b : List Byte) : Option Instr :=
  match decode p b with
  | .ok i => if i.wf p then some i else none
  | .error _ => none

/-- The packet an exchange step is about, and the state it runs in: the frame in the frame buffer
(20_memory.md R65), or the ten bytes an answered response read has consumed (R86). None where the bytes are
no well-formed packet of the seven kinds, or the read has not brought ten bytes. -/
def fetch (s : State) : Option (Instr × State) :=
  match s.ph with
  | .tx => (instrAt s.params s.frame).map fun i => (i, s)
  | .rx =>
    match rxReadExact Config.rspFrameLen s.rx with
    | .bytes b rest => (instrAt s.params b).map fun i => (i, { s with rx := rest })
    | .timeout _ => none
    | .error _ => none
    | .waiting => none

/-- An exchange step without a packet kind: TX of whatever the frame buffer holds (R165), RX of whatever
the receive stream answers (R166). -/
def exchangeRaw (s : State) : StepOutcome :=
  match s.ph with
  | .tx => .next (sendFrame s.frame s)
  | .rx => receiveStep s

/-- At the end of a step the environment applies the next port levels; without further ones the levels
stay (log 4). -/
def loadInputs (s : State) : State :=
  match s.later with
  | [] => s
  | i :: rest => { s with inp := i, later := rest, rx := s.rx ++ i.arrive }

/-- The session state in which a kind is sent or answered (10_state.md R22). -/
def homeState : Instr → SessionState
  | .cmdStart => .starting
  | .cmdEnd => .awaitEndAck
  | .cmdCancel => .starting
  | .header _ _ _ _ => .awaitHeaderAck
  | .data _ => .sendingData
  | .rspAck => .starting
  | .rspNack => .starting

/-- `s` with what an exchange needs: the session is in states 1 to 4 with the transport in hand, and
neither reset nor cancel is asserted. -/
def inSession (st : SessionState) (s : State) : State :=
  { s with st := if s.st.active then s.st else st, own := true,
           inp := { s.inp with reset := false, cancel := false } }

/-- `s` with the frame `f` of the kind `i` placed where the next step fetches it (log 17): a Response at
the head of the receive stream in phase RX, the Cancel frame behind the cancel input of a session that has
written a frame, every other kind in the frame buffer in phase TX. -/
def placeFrame (i : Instr) (f : List Byte) (s : State) : State :=
  let t := inSession (homeState i) s
  match i with
  | .rspAck => { t with ph := .rx, attempt := if s.attempt = 0 then 1 else s.attempt, txAny := true, rx := f.map .byte ++ s.rx }
  | .rspNack => { t with ph := .rx, attempt := if s.attempt = 0 then 1 else s.attempt, txAny := true, rx := f.map .byte ++ s.rx }
  | .cmdCancel => { t with txAny := true, inp := { t.inp with cancel := true } }
  | .cmdStart => { t with ph := .tx, frame := f }
  | .cmdEnd => { t with ph := .tx, frame := f }
  | .header _ _ _ _ => { t with ph := .tx, frame := f }
  | .data _ => { t with ph := .tx, frame := f }

/-- `s` with the bytes of a table row's word placed where the next step fetches them; bytes that are no
packet kind go into the frame buffer. -/
def placeWord (s : State) (nbits w : Nat) : State :=
  let f := completeFrame s.params.crc (tableBytes nbits w)
  match decode s.params f with
  | .ok i => placeFrame i f s
  | .error _ => { inSession .starting s with ph := .tx, frame := f }

end Sys2Proof.Machine
end

