-- ==== Sys2Proof/Machine/Step.lean ====
section
/-! DEFINITION. One step of the block (42_transfer_session.md R160), and the placing of a packet where the
next step fetches it. -/

namespace Sys2Proof.Machine

/-- The step that `selectStep` names. -/
def stepSelected (s : State) : Host.Outcome State Fault Refusal :=
  match selectStep s with
  | .reset => .next (resetRegs s)
  | .noStep => .next s
  | .cancel => exec .cmdCancel s
  | .begin src => beginSession src (takeBegin s)
  | .exchange =>
    match fetch s with
    | some (i, t) => exec i t
    | none => exchangeRaw s

/-- One atomic step: the selected one, then the environment's next port levels. A configuration outside
the ranges of R8 is refused. -/
def step (s : State) : Host.Outcome State Fault Refusal :=
  withLegalParams s (mapNext loadInputs (stepSelected s))

/-- `s` with a table row's word stored where `step` fetches its next packet (log 17). -/
def State.withFetchWord (s : State) (nbits w : Nat) : State := placeWord s nbits w

end Sys2Proof.Machine
end

