-- ==== Sys2Proof/Safety.lean ====
section
/-! DEFINITION. What a sound session is, in the terms the statements use: the packet a session state
exchanges, the session invariant, the bound on the steps left, and the events a session puts on the output
ports. -/

namespace Sys2Proof.Machine

/-- An outcome that is a next state. -/
def Continues (o : StepOutcome) : Prop := ∃ t, o = .next t

/-- The packet that the session's registers say is current (10_state.md R22, meaning column). -/
def currentPacket (s : State) : Option Instr :=
  match s.st with
  | .starting => some .cmdStart
  | .awaitHeaderAck => some (.header s.imgSize s.imgCrc 0 0)
  | .sendingData => (imgRead s s.bytesSent.toNat s.chunkLen.toNat).map .data
  | .awaitEndAck => some .cmdEnd
  | .idle => none
  | .complete => none
  | .failed => none

/-- What holds of every state a session reaches: rules of 10_state.md and 42_transfer_session.md, one a
field. -/
structure SessionInv (s : State) : Prop where
  /-- The parameters are legal (00_scope.md R8). -/
  legal : s.params.legal = true
  /-- `attempt` never exceeds MAX_ATTEMPTS (R24). -/
  attempt_le : s.attempt.toNat ≤ s.params.maxAttempts
  /-- A frame is to be written only while attempts are left (R169). -/
  attempt_lt : s.st.active = true → s.ph = .tx → s.attempt.toNat < s.params.maxAttempts
  /-- A response is due only after the frame has been written (R23, R32). -/
  written : s.st.active = true → s.ph = .rx → 1 ≤ s.attempt.toNat ∧ s.txAny = true
  /-- `own` is 1 exactly while a session runs (R33). -/
  own_active : s.own = s.st.active
  /-- `cause` is NONE exactly outside FAILED (R31, 60_exceptions.md R203). -/
  cause_failed : s.cause = .none ↔ s.st ≠ .failed
  /-- `bytes_sent` never exceeds `img_size` (R27). -/
  sent_le : s.bytesSent.toNat ≤ s.imgSize.toNat
  /-- `img_size` and `img_crc` are those of the image (R25, R26). -/
  image : s.st.active = true →
    s.imgSize.toNat = s.img.length ∧ s.imgCrc = crcCompute s.params.crc s.img
  /-- In IDLE every session register is at its reset value (R38). -/
  idle_reset : s.st = .idle → s = { resetRegs s with crcReg := s.crcReg }
  /-- `frame` is the frame ENCODE builds for the current packet (R29). -/
  frame_current : s.st.active = true →
    ∃ i, currentPacket s = some i ∧ encode s.params i = some s.frame
  /-- Before the data phase no byte is acknowledged and no chunk is in flight (R162, R171). -/
  before_data : s.st = .starting ∨ s.st = .awaitHeaderAck → s.bytesSent = 0 ∧ s.chunkLen = 0
  /-- In SENDING_DATA the chunk in flight has min(MAX_CHUNK, img_size − bytes_sent) bytes, at least one
  (R28, R172, R173). -/
  chunk : s.st = .sendingData →
    s.chunkLen.toNat = min s.params.maxChunk (s.imgSize.toNat - s.bytesSent.toNat) ∧ 1 ≤ s.chunkLen.toNat
  /-- After the data phase every byte is acknowledged (R172, R173). -/
  after_data : s.st = .awaitEndAck ∨ s.st = .complete → s.bytesSent = s.imgSize

/-- ceil(n / c), for c at least 1. -/
def ceilDiv (n c : Nat) : Nat := (n + c - 1) / c

/-- The packets not yet acknowledged, the current one included (42_transfer_session.md R180). -/
def packetsLeft (s : State) : Nat :=
  let chunks := ceilDiv (s.imgSize.toNat - s.bytesSent.toNat) s.params.maxChunk
  match s.st with
  | .starting => 3 + chunks
  | .awaitHeaderAck => 2 + chunks
  | .sendingData => 1 + chunks
  | .awaitEndAck => 1
  | .idle => 0
  | .complete => 0
  | .failed => 0

/-- The most TX and RX steps a running session can still take (R180): all attempts of the packets after the
current one, and what is left of the current one's. -/
def stepsLeft (s : State) : Nat :=
  if s.st.active then
    (packetsLeft s - 1) * (2 * s.params.maxAttempts) +
      (2 * (s.params.maxAttempts - s.attempt.toNat) + match s.ph with | .tx => 0 | .rx => 1)
  else 0

/-- The transport answers the read that is due, if one is (D33). -/
def Answered (s : State) : Prop :=
  s.ph = .rx → rxReadExact Config.rspFrameLen s.rx ≠ .waiting

/-- No reset and no cancel is asserted in the next step. -/
def Undisturbed (s : State) : Prop := s.inp.reset = false ∧ s.inp.cancel = false

/-- Chunk `k` of an image: IMG[k·C .. min((k+1)·C, F) − 1] (R175). -/
def imageChunk (c : Nat) (img : List Byte) (k : Nat) : List Byte :=
  (img.drop (k * c)).take c

/-- What the output ports carry for chunk `k` when its first attempt is acknowledged: its Data frame, then
the progress value min((k+1)·C, F) (R173, R181). -/
def chunkEvents (p : Params) (img : List Byte) (k : Nat) : List PortEvent :=
  [.tx (buildFrame p.crc Config.typeData (imageChunk p.maxChunk img k)),
   .progress (BitVec.ofNat 32 (min ((k + 1) * p.maxChunk) img.length))]

/-- What the output ports carry in a session whose every frame is acknowledged at once (R184). -/
def deliveryEvents (p : Params) (img : List Byte) : List PortEvent :=
  [.tx (buildFrame p.crc Config.typeCommand [Config.codeStart]),
   .tx (buildFrame p.crc Config.typeHeader
     (le32 (BitVec.ofNat 32 img.length) ++ le32 (crcCompute p.crc img) ++ zeros 8))] ++
  (List.range (ceilDiv img.length p.maxChunk)).flatMap (chunkEvents p img) ++
  [.tx (buildFrame p.crc Config.typeCommand [Config.codeEnd]), .result .complete]

/-- `n` copies of a frame as the receive stream delivers them. -/
def rxFrames (n : Nat) (f : List Byte) : List RxEvent :=
  (List.replicate n (f.map RxEvent.byte)).flatten

/-- The frames of the two responses (41_packet_codec.md R127, R128). -/
def ackFrame (p : Params) : List Byte := buildFrame p.crc Config.typeResponse [Config.codeAck]
def nackFrame (p : Params) : List Byte := buildFrame p.crc Config.typeResponse [Config.codeNack]

/-- The number of result pulses in what the ports have carried (R179). -/
def resultPulses (outs : List PortEvent) : Nat :=
  (outs.filter fun e => match e with
    | .result _ => true
    | .tx _ => false
    | .close => false
    | .progress _ => false).length

end Sys2Proof.Machine
end

