-- ==== Sys2Proof/Certificates/Slice0/Obligations.lean ====
section
/-! DEFINITION. The statements for the provers. Every statement is about every state, so about every value
of the parameters and of everything the environment puts on the ports. -/

open Sys2Proof Sys2Proof.Machine

/-! ### CRC engine -/

/-- 40_crc_engine.md R105: CRC_INIT, CRC_UPDATE of every byte, CRC_FINAL compute a function of the bytes and
the parameters; only `crc_reg` is written, and the value it held before does not matter. -/
def Obligations.CrcComputeIsPure : Prop :=
  (∀ (s : State) (bytes : List Byte),
    opCrcCompute bytes s =
      (crcCompute s.params.crc bytes, { s with crcReg := crcRun s.params.crc bytes })) ∧
  (∀ c : CrcParams, crcCompute c [] = (if c.refout then reflect32 c.init else c.init) ^^^ c.xorout) ∧
  crcCompute CrcParams.isoHdlc [0x00, 0x01, 0x00, 0x00] = 0x2086B52B

/-- 40_crc_engine.md R102 to R104: the three register operations, bit by bit, and their examples. -/
def Obligations.CrcRegisterOperations : Prop :=
  (∀ s : State, opCrcInit s = { s with crcReg := s.params.crc.init }) ∧
  (∀ (s : State) (b : Byte),
    let shift : U32 → U32 := fun r =>
      if r.getLsbD 31 then (r <<< 1) ^^^ s.params.crc.poly else r <<< 1
    let d : Byte := if s.params.crc.refin then reflect8 b else b
    let r0 : U32 := s.crcReg ^^^ (d.zeroExtend 32 <<< 24)
    opCrcUpdate b s =
      { s with crcReg := shift (shift (shift (shift (shift (shift (shift (shift r0))))))) }) ∧
  (∀ s : State, opCrcFinal s =
    (if s.params.crc.refout then reflect32 s.crcReg else s.crcReg) ^^^ s.params.crc.xorout) ∧
  crcUpdate CrcParams.isoHdlc 0xFFFFFFFF 0x31 = 0x1208C43E ∧
  crcFinal CrcParams.isoHdlc 0x9B63D02C = 0xCBF43926

/-- The bit reversals of 00_scope.md R10: bit i moves to bit 7 − i, or 31 − i. -/
def Obligations.ReflectionReversesBits : Prop :=
  (∀ (b : Byte) (i : Nat), i < 8 → (reflect8 b).getLsbD (7 - i) = b.getLsbD i) ∧
  (∀ (v : U32) (i : Nat), i < 32 → (reflect32 v).getLsbD (31 - i) = v.getLsbD i)

/-- The law of 40_crc_engine.md section 3 (its R107, which the spec marks as general knowledge): with an odd
polynomial, sequences of one length that differ in exactly one byte have different checksums. -/
def Obligations.CrcDetectsSingleByteChange : Prop :=
  ∀ (c : CrcParams), c.poly.getLsbD 0 = true →
    ∀ (a b : List Byte) (i : Nat), a.length = b.length → a[i]? ≠ b[i]? →
      (∀ j, j ≠ i → a[j]? = b[j]?) → crcCompute c a ≠ crcCompute c b

/-! ### Packet codec -/

/-- 30_encoding.md R72, R73: SOF at byte 0 and EOF at offset 8 + L, in every frame that is built; with the
fields of R70 at their offsets. -/
def Obligations.BuiltFrameLayout : Prop :=
  ∀ (c : CrcParams) (type : Byte) (body : List Byte), body.length < 65536 →
    let f := buildFrame c type body
    f.length = 9 + body.length ∧
    f[0]? = some 0xAA ∧ f[8 + body.length]? = some 0xBB ∧
    f[1]? = some type ∧ (rdLE16 f 2).toNat = body.length ∧
    slice f 4 (3 + body.length) = body ∧
    rdLE32 f (4 + body.length) = crcCompute c (slice f 1 (3 + body.length))

/-- 30_encoding.md R78: the Header payload is sixteen bytes, four little-endian 32-bit fields, the reserved
ones zero: the whole frame, byte by byte. -/
def Obligations.HeaderFrameBytes : Prop :=
  ∀ (p : Params) (size checksum : U32),
    ∃ crc : U32, crc = crcCompute p.crc (frameBody 0x02 (le32 size ++ le32 checksum ++ zeros 8)) ∧
      encode p (.header size checksum 0 0) = some
        [0xAA, 0x02, 0x10, 0x00,
         size.extractLsb' 0 8, size.extractLsb' 8 8, size.extractLsb' 16 8, size.extractLsb' 24 8,
         checksum.extractLsb' 0 8, checksum.extractLsb' 8 8, checksum.extractLsb' 16 8,
         checksum.extractLsb' 24 8,
         0x00, 0x00, 0x00, 0x00, 0x00, 0x00, 0x00, 0x00,
         crc.extractLsb' 0 8, crc.extractLsb' 8 8, crc.extractLsb' 16 8, crc.extractLsb' 24 8, 0xBB]

/-- 41_packet_codec.md R138, the round trip law: DECODE of what ENCODE builds is the packet. -/
def Obligations.DecodeOfEncodedPacket : Prop :=
  ∀ (p : Params) (type : Byte) (body : List Byte),
    p.legal = true → encodeAccepts p type body = true →
    ∃ f, encodePacket p type body = some f ∧
      decodeFrame p.crc f = .ok
        { type := type, length := BitVec.ofNat 16 body.length, payload := body,
          checksum := crcCompute p.crc ([type] ++ le16 (BitVec.ofNat 16 body.length) ++ body) }

/-- DECODE AND ENCODE AGREE, for every packet kind with every operand: the kind read from its frame is the
kind (30_encoding.md section 3, 41_packet_codec.md section 2). -/
def Obligations.DecodeOfEncodedKind : Prop :=
  ∀ (p : Params) (i : Instr), p.legal = true → i.wf p = true →
    ∃ f, encode p i = some f ∧ decode p f = .ok i

/-- The other direction: bytes that decode to a well-formed kind are the frame ENCODE builds for it, so each
frame has one meaning and no bit of it is dropped. -/
def Obligations.EncodeOfDecodedKind : Prop :=
  ∀ (p : Params) (b : List Byte) (i : Instr),
    decode p b = .ok i → i.wf p = true → encode p i = some b

/-- 41_packet_codec.md R139: changing one payload or checksum byte of an encoded packet makes DECODE fail
with IntegrityError. -/
def Obligations.PayloadOrChecksumChangeIsIntegrityError : Prop :=
  ∀ (p : Params) (type : Byte) (body f : List Byte) (i : Nat) (x : Byte),
    p.legal = true → encodePacket p type body = some f →
    4 ≤ i → i ≤ 7 + body.length → f[i]? ≠ some x →
    decodeFrame p.crc (f.set i x) = .error .integrity

/-- The other single-byte changes of 41_packet_codec.md section 4 (its R140, an inference of the spec). -/
def Obligations.OtherSingleByteChanges : Prop :=
  ∀ (p : Params) (type : Byte) (body f : List Byte) (x : Byte),
    p.legal = true → encodePacket p type body = some f →
    (x ≠ 0xAA → decodeFrame p.crc (f.set 0 x) = .error .framing) ∧
    (x ≠ type → decodeFrame p.crc (f.set 1 x) = .error .integrity) ∧
    (f[2]? ≠ some x → decodeFrame p.crc (f.set 2 x) = .error .lengthMismatch) ∧
    (f[3]? ≠ some x → decodeFrame p.crc (f.set 3 x) = .error .lengthMismatch) ∧
    (x ≠ 0xBB → decodeFrame p.crc (f.set (8 + body.length) x) = .error .framing)

/-- The six checks of DECODE in their order, and the packet of a frame that passes them
(41_packet_codec.md section 3; the order is the spec's own decision D8). -/
def Obligations.DecodeChecksInOrder : Prop :=
  ∀ (c : CrcParams) (b : List Byte),
    let n := b.length
    let len := rdLE16 b 2
    let stored := rdLE32 b (4 + len.toNat)
    decodeFrame c b =
      if n < 1 ∨ b[0]? ≠ some 0xAA then .error .framing
      else if n < 9 then .error .framing
      else if n - 9 ≠ len.toNat then .error .lengthMismatch
      else if b[n - 1]? ≠ some 0xBB then .error .framing
      else if crcCompute c (slice b 1 (3 + len.toNat)) ≠ stored then .error .integrity
      else if (b.getD 1 0).toNat > 3 then .error .framing
      else .ok { type := b.getD 1 0, length := len, payload := slice b 4 (3 + len.toNat),
                 checksum := stored }

/-- ENCODE refuses exactly the packets that are not well-formed (41_packet_codec.md section 1; the list and
the refusal are the spec's own decision D11). -/
def Obligations.EncodeRefusesExactlyIllFormed : Prop :=
  ∀ (p : Params) (type : Byte) (body : List Byte),
    (encodePacket p type body ≠ none ↔
      (type = 0x00 ∧ (body = [0x00] ∨ body = [0x01] ∨ body = [0x02])) ∨
      (type = 0x02 ∧ body.length = 16) ∨
      (type = 0x01 ∧ body.length ≤ p.maxChunk) ∨
      (type = 0x03 ∧ (body = [0x00] ∨ body = [0x01]))) ∧
    (∀ f, encodePacket p type body = some f → f = buildFrame p.crc type body)

/-- Frames written out byte by byte in 95_test_vectors.md section 3.1 decode to the kinds they stand for. -/
def Obligations.KnownFramesDecode : Prop :=
  decode Params.default [0xAA, 0x00, 0x01, 0x00, 0x00, 0x2B, 0xB5, 0x86, 0x20, 0xBB] = .ok .cmdStart ∧
  decode Params.default [0xAA, 0x00, 0x01, 0x00, 0x02, 0x07, 0xD4, 0x88, 0xCE, 0xBB] = .ok .cmdCancel ∧
  decode Params.default
    [0xAA, 0x02, 0x10, 0x00, 0xE8, 0x03, 0x00, 0x00, 0x41, 0xFB, 0xE3, 0x74, 0x00, 0x00, 0x00, 0x00,
     0x00, 0x00, 0x00, 0x00, 0xDF, 0x39, 0x73, 0xF7, 0xBB] = .ok (.header 1000 0x74E3FB41 0 0) ∧
  decode Params.default
    [0xAA, 0x01, 0x05, 0x00, 0x48, 0x45, 0x4C, 0x4C, 0x4F, 0x7B, 0x63, 0xD6, 0xFC, 0xBB] =
      .ok (.data [0x48, 0x45, 0x4C, 0x4C, 0x4F]) ∧
  decode Params.default [0xAA, 0x03, 0x01, 0x00, 0x01, 0x53, 0x2A, 0x34, 0x45, 0xBB] = .ok .rspNack

/-- Only the ACK frame itself is an ACK, and only the NACK frame a NACK: no other bytes a device sends
advance the session (from 42_transfer_session.md section 2, CLASSIFY). -/
def Obligations.OnlyTheAckFrameIsAck : Prop :=
  ∀ (p : Params) (b : List Byte),
    (classify p.crc b = .ack ↔ b = ackFrame p) ∧ (classify p.crc b = .nack ↔ b = nackFrame p)

/-! ### The streams -/

/-- A read that brings bytes takes exactly the next ones and skips none; a read that ends in Timeout or
TransportError met it before its last byte and leaves what it did not consume (20_memory.md section 1). -/
def Obligations.ReadsSkipNothing : Prop :=
  ∀ (n : Nat) (stream : List RxEvent),
    (∀ b rest, rxReadExact n stream = .bytes b rest ↔
      b.length = n ∧ stream = b.map RxEvent.byte ++ rest) ∧
    (∀ rest, rxReadExact n stream = .timeout rest ↔
      ∃ (arrived : List Byte) (k : Nat) (tail : List RxEvent), arrived.length < n ∧
        stream = arrived.map RxEvent.byte ++ RxEvent.timeout k :: tail ∧
        rest = (arrived.drop k).map RxEvent.byte ++ tail) ∧
    (∀ rest, rxReadExact n stream = .error rest ↔
      ∃ (arrived : List Byte) (k : Nat) (tail : List RxEvent), arrived.length < n ∧
        stream = arrived.map RxEvent.byte ++ RxEvent.error k :: tail ∧
        rest = (arrived.drop k).map RxEvent.byte ++ tail) ∧
    (rxReadExact n stream = .waiting ↔
      ∃ arrived : List Byte, arrived.length < n ∧ stream = arrived.map RxEvent.byte)

/-- 20_memory.md R52: ImgRead gives the image's bytes, and none beyond it: a Data chunk asked for beyond the
image is a fault of the model. -/
def Obligations.ImageReadStaysInside : Prop :=
  ∀ (s : State) (off n : Nat),
    (off + n ≤ s.img.length →
      ∃ bytes, imgRead s off n = some bytes ∧ bytes.length = n ∧
        ∀ k, k < n → bytes[k]? = s.img[off + k]?) ∧
    (s.img.length < off + n → loadChunk off n s = .fault .imageRange)

/-! ### One packet: what exec does -/

/-- CMD_START, CMD_END, HEADER and DATA in phase TX with an accepted write: the frame of the packet is on
TX, the attempt is counted and a response is due; nothing else changes (41_packet_codec.md section 2,
42_transfer_session.md section 2). -/
def Obligations.SendingKindsTransmit : Prop :=
  ∀ s : State, s.params.legal = true → s.st.active = true → s.ph = .tx → s.inp.txStatus = .ok →
    let sent : List Byte → State := fun f =>
      { s with attempt := s.attempt + 1, txAny := true, ph := .rx, outs := s.outs ++ [.tx f] }
    exec .cmdStart s = .next (sent (buildFrame s.params.crc 0x00 [0x00])) ∧
    exec .cmdEnd s = .next (sent (buildFrame s.params.crc 0x00 [0x01])) ∧
    (∀ size checksum reserved1 reserved2,
      exec (.header size checksum reserved1 reserved2) s =
        .next (sent (buildFrame s.params.crc 0x02
          (le32 size ++ le32 checksum ++ le32 reserved1 ++ le32 reserved2)))) ∧
    (∀ chunk : List Byte, chunk.length ≤ s.params.maxChunk →
      exec (.data chunk) s = .next (sent (buildFrame s.params.crc 0x01 chunk))) ∧
    (∀ chunk : List Byte, s.params.maxChunk < chunk.length →
      exec (.data chunk) s = .refused .encodeRefused)

/-- The ACK of Start makes the Header packet, with the image size, the image checksum and zero reserved
fields, the current packet (42_transfer_session.md section 2, ADVANCE from STARTING). The value left in
`crc_reg` is the model's reading of log 11. -/
def Obligations.AckOfStartLoadsHeader : Prop :=
  (∀ s : State, s.params.legal = true → s.st = .starting → s.ph = .rx →
    let body := le32 s.imgSize ++ le32 s.imgCrc ++ zeros 8
    exec .rspAck s = .next
      { s with attempt := 0, ph := .tx, st := .awaitHeaderAck,
               frame := buildFrame s.params.crc 0x02 body,
               crcReg := crcRun s.params.crc (frameBody 0x02 body) }) ∧
  buildFrame CrcParams.isoHdlc 0x02 (le32 1000 ++ le32 0x74E3FB41 ++ zeros 8) =
    [0xAA, 0x02, 0x10, 0x00, 0xE8, 0x03, 0x00, 0x00, 0x41, 0xFB, 0xE3, 0x74, 0x00, 0x00, 0x00, 0x00,
     0x00, 0x00, 0x00, 0x00, 0xDF, 0x39, 0x73, 0xF7, 0xBB]

/-- The ACK of Header loads the first chunk, or End for an empty image (42_transfer_session.md section 2,
ADVANCE from AWAIT_HEADER_ACK; the empty image is the spec's own decision D20). The value left in `crc_reg`
is the model's reading of log 11. -/
def Obligations.AckOfHeaderLoadsFirstChunk : Prop :=
  ∀ s : State, s.params.legal = true → s.st = .awaitHeaderAck → s.ph = .rx →
    let n := min s.params.maxChunk s.imgSize.toNat
    (s.imgSize = 0 → exec .rspAck s = .next
      { s with attempt := 0, ph := .tx, st := .awaitEndAck,
               frame := buildFrame s.params.crc 0x00 [0x01],
               crcReg := crcRun s.params.crc (frameBody 0x00 [0x01]) }) ∧
    (s.imgSize ≠ 0 → n ≤ s.img.length → exec .rspAck s = .next
      { s with attempt := 0, ph := .tx, st := .sendingData, chunkLen := BitVec.ofNat 16 n,
               frame := buildFrame s.params.crc 0x01 (s.img.take n),
               crcReg := crcRun s.params.crc (frameBody 0x01 (s.img.take n)) }) ∧
    (s.imgSize ≠ 0 → s.img.length < n → exec .rspAck s = .fault .imageRange)

/-- The ACK of a Data packet counts its bytes, reports progress and loads the next chunk, or End after the
last one (42_transfer_session.md section 2, ADVANCE from SENDING_DATA; counting acknowledged bytes is the
spec's own decision D21). The value left in `crc_reg` is the model's reading of log 11. -/
def Obligations.AckOfDataReportsProgress : Prop :=
  ∀ s : State, s.params.legal = true → s.st = .sendingData → s.ph = .rx →
    let sent : U32 := s.bytesSent + s.chunkLen.zeroExtend 32
    let n := min s.params.maxChunk (s.imgSize - sent).toNat
    let chunk := (s.img.drop sent.toNat).take n
    (sent = s.imgSize → exec .rspAck s = .next
      { s with attempt := 0, ph := .tx, st := .awaitEndAck, bytesSent := sent,
               frame := buildFrame s.params.crc 0x00 [0x01],
               crcReg := crcRun s.params.crc (frameBody 0x00 [0x01]),
               outs := s.outs ++ [.progress sent] }) ∧
    (sent ≠ s.imgSize → sent.toNat + n ≤ s.img.length → exec .rspAck s = .next
      { s with attempt := 0, ph := .tx, bytesSent := sent, chunkLen := BitVec.ofNat 16 n,
               frame := buildFrame s.params.crc 0x01 chunk,
               crcReg := crcRun s.params.crc (frameBody 0x01 chunk),
               outs := s.outs ++ [.progress sent] }) ∧
    (sent ≠ s.imgSize → s.img.length < sent.toNat + n → exec .rspAck s = .fault .imageRange)

/-- The ACK of End completes the session and releases the transport (42_transfer_session.md section 2,
ADVANCE from AWAIT_END_ACK; the release is the spec's own decision D23). The value left in `crc_reg` is the
model's reading of log 11. -/
def Obligations.AckOfEndCompletes : Prop :=
  ∀ s : State, s.params.legal = true → s.st = .awaitEndAck → s.ph = .rx →
    exec .rspAck s = .next
      { s with attempt := 0, ph := .tx, st := .complete, own := false,
               crcReg := crcRun s.params.crc (frameBody 0x03 [0x00]),
               outs := s.outs ++ [.result .complete] }

/-- NACK: the same frame is written again while attempts are left, else the session fails with
DEVICE_REJECTED (42_transfer_session.md section 2; the count is the spec's own decision D12). Where the
session goes on, `crc_reg` is as the DECODE of the NACK left it; where it fails, `crc_reg` is as before the
step (60_exceptions.md section 2, a failure is precise): the model's reading of log 11. -/
def Obligations.NackRetriesThenRejects : Prop :=
  ∀ s : State, s.params.legal = true → s.st.active = true → s.ph = .rx →
    let reg := crcRun s.params.crc (frameBody 0x03 [0x01])
    (s.attempt.toNat < s.params.maxAttempts →
      exec .rspNack s = .next { s with ph := .tx, crcReg := reg }) ∧
    (s.params.maxAttempts ≤ s.attempt.toNat →
      exec .rspNack s = .next
        { s with st := .failed, cause := .deviceRejected, own := false,
                 outs := s.outs ++ [.result (.failed .deviceRejected)] })

/-- A frame of another type met as a response is a protocol violation, retried like a NACK
(42_transfer_session.md section 2, CLASSIFY; the retry is the spec's own decision D14). A ten-byte Data
frame and the three Commands; CMD_CANCEL with the cancel input not asserted. Data frames of other lengths
are met ten bytes at a time, which FailedResponseRetriesThenFails covers. `crc_reg` as in
NackRetriesThenRejects: log 11. -/
def Obligations.WrongTypeIsRetriedThenFatal : Prop :=
  ∀ s : State, s.params.legal = true → s.st.active = true → s.ph = .rx → s.inp.cancel = false →
    ∀ i : Instr, (i = .cmdStart ∨ i = .cmdEnd ∨ i = .cmdCancel ∨ ∃ b, i = .data [b]) →
      let reg := crcRun s.params.crc (frameBody (typeCode i) (payload i))
      (s.attempt.toNat < s.params.maxAttempts →
        exec i s = .next { s with ph := .tx, crcReg := reg }) ∧
      (s.params.maxAttempts ≤ s.attempt.toNat →
        exec i s = .next
          { s with st := .failed, cause := .malformedResponse, own := false,
                   outs := s.outs ++ [.result (.failed .malformedResponse)] })

/-- A Header frame met as a response while attempts are left: ten of its bytes are read, the current frame
is written again, and the surplus fifteen bytes stay in the receive stream (70_reset_and_hazards.md
section 3, an inference of the spec). The last attempt is covered by FailedResponseRetriesThenFails. -/
def Obligations.LongFrameLeavesItsSurplus : Prop :=
  ∀ (s : State) (size checksum reserved1 reserved2 : U32),
    s.params.legal = true → s.st.active = true → s.ph = .rx →
    s.attempt.toNat < s.params.maxAttempts →
    let f := buildFrame s.params.crc 0x02
      (le32 size ++ le32 checksum ++ le32 reserved1 ++ le32 reserved2)
    exec (.header size checksum reserved1 reserved2) s = .next
      { s with ph := .tx, rx := (f.drop 10).map RxEvent.byte ++ s.rx }

/-- In IDLE, COMPLETE and FAILED a packet has no effect (42_transfer_session.md section 1), but for
CMD_CANCEL with the cancel input asserted. -/
def Obligations.NoFrameOutsideStatesOneToFour : Prop :=
  ∀ (s : State) (i : Instr), s.params.legal = true → s.st.active = false →
    (i = .cmdCancel → s.inp.cancel = false) → exec i s = .next s

/-- CANCEL (42_transfer_session.md section 2; its conditions are the spec's own decisions D6 and D7): in
IDLE no transport is touched; otherwise the Cancel frame goes out once if any frame has, whatever the write
returns, the transport is closed if the session owns it, and the session fails with CANCELLED. No other
register changes: `crc_reg` too is as before the step, although the Cancel frame was built in it
(60_exceptions.md section 2), the model's reading of log 11. The receive stream is left as it is: the
model's choice, log 29. -/
def Obligations.CancelEndsSession : Prop :=
  ∀ s : State, s.params.legal = true → s.inp.cancel = true → s.st.terminal = false →
    let frame := buildFrame s.params.crc 0x00 [0x02]
    let wire := match s.inp.txStatus with
      | .ok => frame
      | .error n => frame.take n
    let cancelled : List PortEvent → State := fun events =>
      { s with st := .failed, cause := .cancelled, own := false,
               outs := s.outs ++ events ++ [.result (.failed .cancelled)] }
    let close : List PortEvent := if s.own then [.close] else []
    (s.st = .idle → exec .cmdCancel s = .next (cancelled [])) ∧
    (s.st ≠ .idle → s.txAny = false → exec .cmdCancel s = .next (cancelled close)) ∧
    (s.st ≠ .idle → s.txAny = true → exec .cmdCancel s = .next (cancelled ([.tx wire] ++ close)))

/-- 00_scope.md R8, last sentence: a configuration outside the ranges is refused, by every step and every
packet. -/
def Obligations.IllegalConfigurationIsRefused : Prop :=
  ∀ s : State,
    ¬ (1 ≤ s.params.maxChunk ∧ s.params.maxChunk ≤ 65535 ∧ 1 ≤ s.params.maxAttempts ∧
        s.params.maxAttempts ≤ 255 ∧ s.params.crc.poly.getLsbD 0 = true) ↔
      (step s = .refused .illegalConfig ∧ ∀ i, exec i s = .refused .illegalConfig)

/-! ### One step -/

/-- A STEP RUNS THE DECODED PACKET: the frame buffer's in phase TX, the next ten received bytes' in phase
RX, CMD_CANCEL's step when the cancel input is taken; then the environment's next port levels apply. -/
def Obligations.StepRunsDecodedPacket : Prop :=
  ∀ s : State, s.params.legal = true → s.inp.reset = false →
    (∀ i, s.inp.cancel = false → s.st.active = true → s.ph = .tx →
      decode s.params s.frame = .ok i → i.wf s.params = true →
      step s = mapNext loadInputs (exec i s)) ∧
    (∀ i b rest, s.inp.cancel = false → s.st.active = true → s.ph = .rx →
      s.rx = b.map RxEvent.byte ++ rest → b.length = 10 →
      decode s.params b = .ok i → i.wf s.params = true →
      step s = mapNext loadInputs (exec i { s with rx := rest })) ∧
    (s.inp.cancel = true → s.st.terminal = false →
      step s = mapNext loadInputs (exec .cmdCancel s))

/-- 42_transfer_session.md R165: TX counts the attempt, writes exactly the bytes of the frame register and
then awaits a response; a failed write, of which any prefix may have gone out, fails the session at once. -/
def Obligations.TxStepWritesFrameRegister : Prop :=
  ∀ s : State, s.params.legal = true → Undisturbed s → s.st.active = true → s.ph = .tx →
    (s.inp.txStatus = .ok → step s = .next (loadInputs
      { s with attempt := s.attempt + 1, txAny := true, ph := .rx, outs := s.outs ++ [.tx s.frame] })) ∧
    (∀ n, s.inp.txStatus = .error n → step s = .next (loadInputs
      { s with attempt := s.attempt + 1, txAny := true, cause := .transport, st := .failed, own := false,
               outs := s.outs ++ [.tx (s.frame.take n), .result (.failed .transport)] }))

/-- 42_transfer_session.md R176: transport errors are never retried, in every state 1 to 4, whatever
`attempt` holds. -/
def Obligations.TransportErrorsAreFatal : Prop :=
  ∀ s : State, s.params.legal = true → Undisturbed s → s.st.active = true →
    (∀ n, s.ph = .tx → s.inp.txStatus = .error n →
      ∃ t, step s = .next t ∧ t.st = .failed ∧ t.cause = .transport ∧ t.own = false ∧
        ∃ wire, t.outs = s.outs ++ [.tx wire, .result (.failed .transport)]) ∧
    (∀ rest, s.ph = .rx → rxReadExact 10 s.rx = .error rest →
      step s = .next (loadInputs
        { s with rx := rest, cause := .transport, st := .failed, own := false,
                 outs := s.outs ++ [.result (.failed .transport)] }))

/-- A response that is not an ACK (42_transfer_session.md section 2, RX and RETRY_OR_FAIL): the frame is
written again while attempts are left, and else the cause is that of this last outcome (the spec's own
decision D13). `crc_reg` changes only where DECODE succeeds and the session goes on
(41_packet_codec.md sections 3 and 4, 60_exceptions.md section 2): the model's reading of log 11. -/
def Obligations.FailedResponseRetriesThenFails : Prop :=
  ∀ (s : State) (b : List Byte) (rest : List RxEvent), s.params.legal = true → Undisturbed s →
    s.st.active = true → s.ph = .rx → s.rx = b.map RxEvent.byte ++ rest → b.length = 10 →
    classify s.params.crc b ≠ .ack →
    let reg := match decodeFrame s.params.crc b with
      | .ok _ => crcRun s.params.crc (slice b 1 (3 + (rdLE16 b 2).toNat))
      | .error _ => s.crcReg
    let cause := match classify s.params.crc b with
      | .ack => Cause.none
      | .nack => Cause.deviceRejected
      | .timeout => Cause.timeout
      | .malformed _ => Cause.malformedResponse
    (s.attempt.toNat < s.params.maxAttempts →
      step s = .next (loadInputs { s with ph := .tx, rx := rest, crcReg := reg })) ∧
    (s.params.maxAttempts ≤ s.attempt.toNat →
      step s = .next (loadInputs
        { s with rx := rest, st := .failed, cause := cause, own := false,
                 outs := s.outs ++ [.result (.failed cause)] }))

/-- A timeout while a response is due is retried like a NACK and ends in TIMEOUT (60_exceptions.md
section 1); an unanswered read waits and changes nothing (42_transfer_session.md section 1). -/
def Obligations.TimeoutRetriesAndSilenceWaits : Prop :=
  ∀ s : State, s.params.legal = true → Undisturbed s → s.st.active = true → s.ph = .rx →
    (∀ rest, rxReadExact 10 s.rx = .timeout rest → s.attempt.toNat < s.params.maxAttempts →
      step s = .next (loadInputs { s with ph := .tx, rx := rest })) ∧
    (∀ rest, rxReadExact 10 s.rx = .timeout rest → s.params.maxAttempts ≤ s.attempt.toNat →
      step s = .next (loadInputs
        { s with rx := rest, st := .failed, cause := .timeout, own := false,
                 outs := s.outs ++ [.result (.failed .timeout)] })) ∧
    (rxReadExact 10 s.rx = .waiting → step s = .next (loadInputs s))

/-- BEGIN with a readable image (42_transfer_session.md section 2; reading the whole image here is the
spec's own decisions D4 and D19). That the request leaves its port is the model's reading of log 20, and the
value left in `crc_reg` that of log 11. -/
def Obligations.BeginStartsSession : Prop :=
  ∀ (s : State) (bytes : List Byte), s.params.legal = true → Undisturbed s → s.st = .idle →
    s.inp.beginReq = some (.image bytes) → bytes.length ≤ 4294967295 →
    step s = .next (loadInputs
      { s with st := .starting, ph := .tx, attempt := 0, img := bytes,
               imgSize := BitVec.ofNat 32 bytes.length, imgCrc := crcCompute s.params.crc bytes,
               bytesSent := 0, chunkLen := 0, frame := buildFrame s.params.crc 0x00 [0x00],
               cause := .none, txAny := false, own := true,
               crcReg := crcRun s.params.crc (frameBody 0x00 [0x00]),
               inp := { s.inp with beginReq := none } })

/-- BEGIN with an unreadable image, or one too large for the size field (the second is the spec's own
decision D19): FILE, and no frame is written (42_transfer_session.md section 2). That the request leaves its
port is the model's reading of log 20. -/
def Obligations.BeginWithoutImageFails : Prop :=
  ∀ (s : State) (src : Source), s.params.legal = true → Undisturbed s → s.st = .idle →
    s.inp.beginReq = some src →
    (src = .unreadable ∨ ∃ bytes, src = .image bytes ∧ 4294967295 < bytes.length) →
    step s = .next (loadInputs
      { s with st := .failed, cause := .file, own := false, inp := { s.inp with beginReq := none },
               outs := s.outs ++ [.result (.failed .file)] })

/-- A begin request outside IDLE has no effect (42_transfer_session.md section 2; the spec's own decision
D24): the step is the same whatever is on the begin port, but for what stands on that port. -/
def Obligations.BeginIgnoredOutsideIdle : Prop :=
  ∀ (s : State) (request : Option Source), s.st ≠ .idle →
    let withRequest := { s with inp := { s.inp with beginReq := request } }
    let forget : State → State := fun t => { t with inp := { t.inp with beginReq := none } }
    mapNext forget (step withRequest) = mapNext forget (step s)

/-- RESET in every state (70_reset_and_hazards.md section 1): every register at its reset value; the
parameters are not changed, and no frame, result or close is put out. That the ports, the image space and
the streams stay is the model's reading of log 18, and that a read abandoned in an RX wait has consumed
nothing of the receive stream is its choice, log 29. -/
def Obligations.ResetReturnsEveryRegister : Prop :=
  ∀ s : State, s.params.legal = true → s.inp.reset = true →
    step s = .next (loadInputs
      { s with crcReg := s.params.crc.init, st := .idle, ph := .tx, attempt := 0, imgSize := 0,
               imgCrc := 0, bytesSent := 0, chunkLen := 0, frame := [], cause := .none, txAny := false,
               own := false })

/-- The reset state: the register values of 10_state.md section 6 for every value of the parameters. The
parameter values, the quiet inputs and the empty streams are the model's choice (logs 1, 4, 5, 6, 18, 24).
With no request on the ports no step is taken (42_transfer_session.md section 1, 70_reset_and_hazards.md
section 1), which the model answers as a next state that changes nothing (log 21). -/
def Obligations.ResetStateValues : Prop :=
  (∀ p : Params, State.resetWith p =
    { params := p, crcReg := p.crc.init, st := .idle, ph := .tx, attempt := 0, imgSize := 0, imgCrc := 0,
      bytesSent := 0, chunkLen := 0, frame := [], cause := .none, txAny := false, own := false,
      inp := { reset := false, cancel := false, beginReq := none, txStatus := .ok, arrive := [] },
      later := [], rx := [], img := [], outs := [] }) ∧
  State.reset = State.resetWith
    { crc := { poly := 0x04C11DB7, init := 0xFFFFFFFF, refin := true, refout := true,
               xorout := 0xFFFFFFFF }, maxChunk := 512, maxAttempts := 3 } ∧
  step State.reset = .next State.reset

/-- COMPLETE and FAILED take no step but RESET, and IDLE takes none without a begin request or cancel
(42_transfer_session.md section 1). -/
def Obligations.TerminalStatesAbsorb : Prop :=
  ∀ s : State, s.params.legal = true → s.inp.reset = false →
    (s.st = .complete ∨ s.st = .failed → step s = .next (loadInputs s)) ∧
    (s.st = .idle → s.inp.cancel = false → s.inp.beginReq = none → step s = .next (loadInputs s))

/-- The codes on the status ports (10_state.md section 3, 60_exceptions.md section 1; the numbers are the
spec's own decision D22): distinct, and 7 is none of them. -/
def Obligations.StatusPortCodes : Prop :=
  (∀ a b : SessionState, a.code = b.code → a = b) ∧ (∀ a : SessionState, a.code ≠ 7) ∧
  (∀ a b : Cause, a.code = b.code → a = b) ∧ (∀ a : Cause, a.code ≠ 7) ∧
  (∀ s : State, s.st = .idle → stPort s = 0) ∧ (∀ s : State, s.st = .failed → stPort s = 6) ∧
  (∀ s : State, s.cause = .cancelled → causePort s = 6)

/-! ### Every step -/

/-- The session invariant holds after reset, at every legal configuration. -/
def Obligations.ResetHasSessionInvariant : Prop :=
  SessionInv State.reset ∧ ∀ p : Params, p.legal = true → SessionInv (State.resetWith p)

/-- THE SESSION INVARIANT IS KEPT BY EVERY STEP. -/
def Obligations.StepKeepsSessionInvariant : Prop :=
  ∀ s t : State, SessionInv s → step s = .next t → SessionInv t

/-- From a state of the invariant no step faults or is refused: ENCODE never refuses a session's packet and
ImgRead is never asked for bytes beyond the image (60_exceptions.md section 1, 20_memory.md section 1;
inferences of the spec). -/
def Obligations.SoundSessionNeverStops : Prop :=
  ∀ s : State, SessionInv s → Continues (step s)

/-- Every TX step and every answered RX step brings the session nearer to its end (the bound of
42_transfer_session.md section 3, an inference of the spec). -/
def Obligations.StepsLeftDecrease : Prop :=
  ∀ s : State, SessionInv s → Undisturbed s → s.st.active = true → Answered s →
    ∃ t, step s = .next t ∧ stepsLeft t < stepsLeft s

/-- A session begins with at most MAX_ATTEMPTS × (3 + ceil(F / MAX_CHUNK)) TX steps and as many RX steps
before it. -/
def Obligations.BeginSetsTheBound : Prop :=
  ∀ (s : State) (bytes : List Byte), SessionInv s → Undisturbed s → s.st = .idle →
    s.inp.beginReq = some (.image bytes) → bytes.length ≤ 4294967295 →
    ∃ t, step s = .next t ∧ t.st = .starting ∧
      stepsLeft t = 2 * (s.params.maxAttempts * (3 + ceilDiv bytes.length s.params.maxChunk))

/-- Whatever bytes the device sends, a session that is left alone ends in COMPLETE or FAILED within the
bound: it never loops (42_transfer_session.md section 3). -/
def Obligations.SessionEndsWithinTheBound : Prop :=
  ∀ (s : State) (bytes : List Byte), SessionInv s → Undisturbed s → s.later = [] →
    s.st.active = true → s.rx = bytes.map RxEvent.byte → 10 * stepsLeft s ≤ bytes.length →
    ∃ (k : Nat) (t : State), k ≤ stepsLeft s ∧ Host.Core.run Sys2Proof.core k s = .next t ∧
      t.st.terminal = true

/-- The only event that moves the session to its next packet is an ACK (42_transfer_session.md section 2,
ADVANCE): while it is left alone and does not fail, its state, packet and byte count change in no other
step. -/
def Obligations.OnlyAckMovesTheSession : Prop :=
  ∀ s t : State, Undisturbed s → s.st.active = true → step s = .next t → t.st ≠ .failed →
    (t.st ≠ s.st ∨ t.frame ≠ s.frame ∨ t.bytesSent ≠ s.bytesSent) →
    s.ph = .rx ∧ ∃ rest, s.rx = (ackFrame s.params).map RxEvent.byte ++ rest

/-- Whatever happens, the output ports only add to what they carried, at most one frame a step, and the
result is pulsed exactly when the session enters COMPLETE or FAILED (20_memory.md section 4,
42_transfer_session.md section 3; inferences of the spec). -/
def Obligations.OneFrameAndOneResult : Prop :=
  ∀ s t : State, step s = .next t →
    (∃ new, t.outs = s.outs ++ new ∧ (new.filterMap fun e => match e with
      | .tx b => some b
      | .close => none
      | .progress _ => none
      | .result _ => none).length ≤ 1) ∧
    resultPulses t.outs = resultPulses s.outs +
      (if s.st.terminal = false ∧ t.st.terminal = true then 1 else 0)

/-- The frame register changes only when the current packet does: at BEGIN and at the advance of an
answered packet, where the attempt counter restarts; never between the attempts of one packet
(20_memory.md section 4, an inference of the spec). -/
def Obligations.FrameBufferIsCoherent : Prop :=
  ∀ s t : State, s.inp.reset = false → step s = .next t → t.frame ≠ s.frame →
    t.attempt = 0 ∧ t.ph = .tx ∧
      ((s.st = .idle ∧ t.st = .starting) ∨ (s.st.active = true ∧ s.ph = .rx))

/-- No step writes the parameters, and the image does not change from BEGIN on (10_state.md section 4,
20_memory.md section 4; the spec's own decisions D26 and D19). -/
def Obligations.ParametersAndImageAreStable : Prop :=
  ∀ s t : State, step s = .next t →
    t.params = s.params ∧ (s.st ≠ .idle → t.img = s.img)

/-- A failure is precise (42_transfer_session.md section 2, FAIL; the spec's own decision D23): the
registers that show the failing packet keep their values, `crc_reg` with them (60_exceptions.md section 2;
log 11), and the attempt is the one that failed. -/
def Obligations.FailureIsPrecise : Prop :=
  ∀ s t : State, step s = .next t → s.st ≠ .failed → t.st = .failed →
    t.own = false ∧ t.cause ≠ .none ∧ t.crcReg = s.crcReg ∧
    t.frame = s.frame ∧ t.bytesSent = s.bytesSent ∧ t.chunkLen = s.chunkLen ∧
    t.imgSize = s.imgSize ∧ t.imgCrc = s.imgCrc ∧ t.ph = s.ph ∧
    (t.attempt = s.attempt ∧ t.txAny = s.txAny ∨
      s.st.active = true ∧ s.ph = .tx ∧ t.attempt = s.attempt + 1 ∧ t.txAny = true)

/-! ### Runs -/

/-- 42_transfer_session.md R183 (a), its first law: after `k` NACKs, k < MAX_ATTEMPTS, and then an ACK, the
session has left the packet after exactly k + 1 writes of the same bytes. -/
def Obligations.NacksThenAckAdvance : Prop :=
  ∀ (s : State) (k : Nat) (rest : List RxEvent), SessionInv s → Undisturbed s → s.later = [] →
    s.inp.txStatus = .ok → s.st.active = true → s.ph = .tx → s.attempt = 0 →
    k < s.params.maxAttempts →
    s.rx = rxFrames k (nackFrame s.params) ++ (ackFrame s.params).map RxEvent.byte ++ rest →
    ∃ (t : State) (more : List PortEvent), Host.Core.run Sys2Proof.core (2 * (k + 1)) s = .next t ∧
      t.outs = s.outs ++ List.replicate (k + 1) (PortEvent.tx s.frame) ++ more ∧
      (∀ b, PortEvent.tx b ∉ more) ∧ t.rx = rest ∧ t.attempt = 0 ∧ t.cause = .none ∧
      packetsLeft t < packetsLeft s

/-- 42_transfer_session.md R183 (b): a device that always rejects: from the begin request the Start frame
is written exactly MAX_ATTEMPTS times and the session ends in FAILED with DEVICE_REJECTED. -/
def Obligations.AlwaysNackFails : Prop :=
  ∀ (s : State) (bytes : List Byte) (rest : List RxEvent), SessionInv s → Undisturbed s →
    s.later = [] → s.inp.txStatus = .ok → s.st = .idle → s.inp.beginReq = some (.image bytes) →
    bytes.length ≤ 4294967295 →
    s.rx = rxFrames s.params.maxAttempts (nackFrame s.params) ++ rest →
    ∃ t : State, Host.Core.run Sys2Proof.core (1 + 2 * s.params.maxAttempts) s = .next t ∧
      t.st = .failed ∧ t.cause = .deviceRejected ∧ t.rx = rest ∧
      t.outs = s.outs ++
        List.replicate s.params.maxAttempts
          (PortEvent.tx (buildFrame s.params.crc 0x00 [0x00])) ++
        [.result (.failed .deviceRejected)]

/-- THE IMAGE IS DELIVERED: with every frame acknowledged, any image and any legal parameters give Start,
Header, the chunks in order each with its progress, End, and Complete (42_transfer_session.md section 3,
which gives the 1000-byte case as its example). -/
def Obligations.AcknowledgedSessionDeliversImage : Prop :=
  ∀ (s : State) (bytes : List Byte) (rest : List RxEvent), SessionInv s → Undisturbed s →
    s.later = [] → s.inp.txStatus = .ok → s.st = .idle → s.inp.beginReq = some (.image bytes) →
    bytes.length ≤ 4294967295 →
    let n := 3 + ceilDiv bytes.length s.params.maxChunk
    s.rx = rxFrames n (ackFrame s.params) ++ rest →
    ∃ t : State, Host.Core.run Sys2Proof.core (1 + 2 * n) s = .next t ∧
      t.st = .complete ∧ t.cause = .none ∧ t.own = false ∧ t.rx = rest ∧
      t.bytesSent.toNat = bytes.length ∧
      t.outs = s.outs ++ deliveryEvents s.params bytes

/-- The chunks cover the image exactly once, in order, each of MAX_CHUNK bytes but the last
(42_transfer_session.md section 2, the chunking law). -/
def Obligations.ChunksCoverTheImage : Prop :=
  ∀ (c : Nat) (img : List Byte), 1 ≤ c →
    (List.range (ceilDiv img.length c)).flatMap (imageChunk c img) = img ∧
    (∀ k, k + 1 < ceilDiv img.length c → (imageChunk c img k).length = c) ∧
    (∀ k, k + 1 = ceilDiv img.length c →
      (imageChunk c img k).length =
        if img.length % c = 0 then c else img.length - c * (img.length / c))
end

