-- ==== Sys2Proof/Laws/Bytes.lean ====
section
/-! SUPPORT. The little-endian fields and slices of byte sequences (00_scope.md R10). -/

namespace Sys2Proof.Machine

/-- The two bytes of a 16-bit value, put together again. -/
theorem join16 (v : U16) :
    (v.extractLsb' 0 8).setWidth 16 ||| ((v.extractLsb' 8 8).setWidth 16 <<< 8) = v := by
  apply BitVec.eq_of_getLsbD_eq
  intro i hi
  simp only [BitVec.getLsbD_or, BitVec.getLsbD_setWidth, BitVec.getLsbD_shiftLeft,
    BitVec.getLsbD_extractLsb']
  interval_cases i <;> simp

/-- The four bytes of a 32-bit value, put together again. -/
theorem join32 (v : U32) :
    (v.extractLsb' 0 8).setWidth 32 ||| ((v.extractLsb' 8 8).setWidth 32 <<< 8) |||
      ((v.extractLsb' 16 8).setWidth 32 <<< 16) ||| ((v.extractLsb' 24 8).setWidth 32 <<< 24) = v := by
  apply BitVec.eq_of_getLsbD_eq
  intro i hi
  simp only [BitVec.getLsbD_or, BitVec.getLsbD_setWidth, BitVec.getLsbD_shiftLeft,
    BitVec.getLsbD_extractLsb']
  interval_cases i <;> simp

/-- Two bytes put together, taken apart again. -/
theorem split16 (a b : Byte) :
    le16 (a.setWidth 16 ||| (b.setWidth 16 <<< 8)) = [a, b] := by
  simp only [le16, List.cons.injEq, and_true]
  constructor <;>
  · apply BitVec.eq_of_getLsbD_eq
    intro i hi
    simp only [BitVec.getLsbD_or, BitVec.getLsbD_setWidth, BitVec.getLsbD_shiftLeft,
      BitVec.getLsbD_extractLsb']
    interval_cases i <;> simp

/-- Four bytes put together, taken apart again. -/
theorem split32 (a b c d : Byte) :
    le32 (a.setWidth 32 ||| (b.setWidth 32 <<< 8) ||| (c.setWidth 32 <<< 16) |||
      (d.setWidth 32 <<< 24)) = [a, b, c, d] := by
  simp only [le32, List.cons.injEq, and_true]
  refine ⟨?_, ?_, ?_, ?_⟩ <;>
  · apply BitVec.eq_of_getLsbD_eq
    intro i hi
    simp only [BitVec.getLsbD_or, BitVec.getLsbD_setWidth, BitVec.getLsbD_shiftLeft,
      BitVec.getLsbD_extractLsb']
    interval_cases i <;> simp

/-- rdLE16 reads what LE16 wrote, wherever it stands (00_scope.md R10). -/
theorem rdLE16_le16 (v : U16) (pre post : List Byte) :
    rdLE16 (pre ++ le16 v ++ post) pre.length = v := by
  have h : ∀ k, k < 2 → (pre ++ le16 v ++ post).getD (pre.length + k) 0 = (le16 v).getD k 0 := by
    intro k hk
    simp only [List.getD_eq_getElem?_getD]
    rw [List.append_assoc, List.getElem?_append_right (by omega), Nat.add_sub_cancel_left,
      List.getElem?_append_left (by simpa [le16] using hk)]
  have h0 := h 0 (by omega)
  have h1 := h 1 (by omega)
  simp only [Nat.add_zero] at h0
  unfold rdLE16
  rw [h0, h1]
  exact join16 v

/-- rdLE32 reads what LE32 wrote, wherever it stands (R10). -/
theorem rdLE32_le32 (v : U32) (pre post : List Byte) :
    rdLE32 (pre ++ le32 v ++ post) pre.length = v := by
  have h : ∀ k, k < 4 → (pre ++ le32 v ++ post).getD (pre.length + k) 0 = (le32 v).getD k 0 := by
    intro k hk
    simp only [List.getD_eq_getElem?_getD]
    rw [List.append_assoc, List.getElem?_append_right (by omega), Nat.add_sub_cancel_left,
      List.getElem?_append_left (by simpa [le32] using hk)]
  have h0 := h 0 (by omega)
  have h1 := h 1 (by omega)
  have h2 := h 2 (by omega)
  have h3 := h 3 (by omega)
  simp only [Nat.add_zero] at h0
  unfold rdLE32
  rw [h0, h1, h2, h3]
  exact join32 v

@[simp] theorem le16_length (v : U16) : (le16 v).length = 2 := rfl
@[simp] theorem le32_length (v : U32) : (le32 v).length = 4 := rfl

/-- The slice that a middle part of a sequence is. -/
theorem slice_middle (pre mid post : List Byte) (j : Nat) (h : j + 1 = pre.length + mid.length) :
    slice (pre ++ mid ++ post) pre.length j = mid := by
  unfold slice
  rw [List.append_assoc, List.drop_left, h, Nat.add_sub_cancel_left, List.take_left]

/-- A length that the 16-bit Length field can say. -/
theorem ofNat16_toNat {n : Nat} (h : n < 65536) : (BitVec.ofNat 16 n).toNat = n := by
  simp [Nat.mod_eq_of_lt h]

/-- A sequence with its last byte split off. -/
theorem list_split_last {α : Type} (l : List α) (a : α) (h : l.getLast? = some a) :
    ∃ m, l = m ++ [a] := by
  rw [List.getLast?_eq_some_iff] at h; exact h

end Sys2Proof.Machine
end

