-- ==== Sys2Proof/Laws/Codec.lean ====
section
/-! SUPPORT. The packet codec: frames field by field, DECODE of a frame, and what accepted bytes are. -/

namespace Sys2Proof.Machine

/-- A frame with any checksum in its checksum field. -/
def frameWith (type : Byte) (body : List Byte) (checksum : U32) : List Byte :=
  Config.sof :: (frameBody type body ++ le32 checksum ++ [Config.eof])

theorem buildFrame_eq_frameWith (c : CrcParams) (type : Byte) (body : List Byte) :
    buildFrame c type body = frameWith type body (crcCompute c (frameBody type body)) := rfl

@[simp] theorem frameBody_length (type : Byte) (body : List Byte) :
    (frameBody type body).length = 3 + body.length := by
  simp [frameBody]; omega

@[simp] theorem frameWith_length (type : Byte) (body : List Byte) (v : U32) :
    (frameWith type body v).length = 9 + body.length := by
  simp [frameWith]; omega

/-- The Length field of a frame (30_encoding.md R75). -/
theorem frameWith_rdLen (type : Byte) (body : List Byte) (v : U32) :
    rdLE16 (frameWith type body v) 2 = BitVec.ofNat 16 body.length := by
  have := rdLE16_le16 (BitVec.ofNat 16 body.length) [Config.sof, type]
    (body ++ le32 v ++ [Config.eof])
  simpa [frameWith, frameBody] using this

/-- The bytes of a frame that the CRC covers (R76). -/
theorem frameWith_covered (type : Byte) (body : List Byte) (v : U32) (h : body.length < 65536) :
    coveredBytes (frameWith type body v) = frameBody type body := by
  unfold coveredBytes
  rw [frameWith_rdLen, ofNat16_toNat h]
  have := slice_middle [Config.sof] (frameBody type body) (le32 v ++ [Config.eof]) (3 + body.length)
    (by simp; omega)
  simpa [frameWith] using this

/-- The payload of a frame. -/
theorem frameWith_payload (type : Byte) (body : List Byte) (v : U32) :
    slice (frameWith type body v) 4 (3 + body.length) = body := by
  have := slice_middle ([Config.sof, type] ++ le16 (BitVec.ofNat 16 body.length)) body
    (le32 v ++ [Config.eof]) (3 + body.length) (by simp; omega)
  simpa [frameWith, frameBody] using this

/-- The checksum field of a frame. -/
theorem frameWith_stored (type : Byte) (body : List Byte) (v : U32) :
    rdLE32 (frameWith type body v) (4 + body.length) = v := by
  have := rdLE32_le32 v (Config.sof :: frameBody type body) [Config.eof]
  have e : (Config.sof :: frameBody type body).length = 4 + body.length := by simp; omega
  rw [e] at this
  simpa [frameWith] using this

/-- A frame passes checks 1 to 4 of DECODE (41_packet_codec.md R130 to R133). -/
theorem frameWith_shape (type : Byte) (body : List Byte) (v : U32) (h : body.length < 65536) :
    decodeShapeError (frameWith type body v) = none := by
  have hl : (frameWith type body v).getLast? = some Config.eof :=
    List.getLast?_concat (l := Config.sof :: (frameBody type body ++ le32 v))
  unfold decodeShapeError
  rw [hl, frameWith_rdLen, ofNat16_toNat h, frameWith_length]
  simp [frameWith]

/-- DECODE of a frame with any checksum in its checksum field. -/
theorem decodeFrame_frameWith (c : CrcParams) (type : Byte) (body : List Byte) (v : U32)
    (h : body.length < 65536) :
    decodeFrame c (frameWith type body v) =
      if crcCompute c (frameBody type body) ≠ v then .error .integrity
      else if Config.typeResponse < type then .error .framing
      else .ok { type := type, length := BitVec.ofNat 16 body.length, payload := body, checksum := v } := by
  unfold decodeFrame
  rw [frameWith_shape type body v h]
  simp only [frameWith_rdLen, ofNat16_toNat h, frameWith_covered type body v h, frameWith_payload,
    frameWith_stored]
  rfl

/-- The CRC register after DECODE of a whole frame of a Type code that exists (R105, R129). -/
theorem decodeCrcReg_buildFrame (c : CrcParams) (type : Byte) (body : List Byte) (reg : U32)
    (h : body.length < 65536) (ht : ¬ Config.typeResponse < type) :
    decodeCrcReg c (buildFrame c type body) reg = crcRun c (frameBody type body) := by
  unfold decodeCrcReg
  rw [buildFrame_eq_frameWith, decodeFrame_frameWith _ _ _ _ h, frameWith_covered _ _ _ h]
  simp [ht]

/-- The CRC register after a failing DECODE (R141). -/
theorem decodeCrcReg_of_error {c : CrcParams} {b : List Byte} {k : DecodeError} (reg : U32)
    (h : decodeFrame c b = .error k) : decodeCrcReg c b reg = reg := by
  unfold decodeCrcReg
  rw [h]

/-- Bytes that pass checks 1 to 4 are a frame around their own fields. -/
theorem eq_frameWith_of_shape (b : List Byte) (h : decodeShapeError b = none) :
    b = frameWith (b.getD 1 0) (slice b 4 (3 + (rdLE16 b 2).toNat))
      (rdLE32 b (4 + (rdLE16 b 2).toNat)) ∧
    (slice b 4 (3 + (rdLE16 b 2).toNat)).length = (rdLE16 b 2).toNat := by
  unfold decodeShapeError at h
  split at h; · simp at h
  split at h; · simp at h
  split at h; · simp at h
  split at h; · simp at h
  rename_i h1 h2 h3 h4
  push Not at h1 h2 h3 h4
  generalize hL : (rdLE16 b 2).toNat = L at *
  obtain ⟨m, rfl⟩ := list_split_last b _ h4
  match m, h1, h2, h3 with
  | [], h1, h2, h3 => simp at h2
  | [_], h1, h2, h3 => simp at h2
  | [_, _], h1, h2, h3 => simp at h2
  | [_, _, _], h1, h2, h3 => simp at h2
  | s :: ty :: l0 :: l1 :: m, h1, h2, h3 =>
    have hs : s = Config.sof := by simpa using h1
    subst hs
    simp only [List.length_append, List.length_cons, List.length_nil] at h2 h3
    have hm : m.length = L + 4 := by omega
    set body := m.take L with hbody
    have hbl : body.length = L := by simp [hbody]; omega
    obtain ⟨c0, c1, c2, c3, hc⟩ : ∃ c0 c1 c2 c3, m.drop L = [c0, c1, c2, c3] := by
      have : (m.drop L).length = 4 := by simp; omega
      match m.drop L, this with
      | [a, b, c, d], _ => exact ⟨a, b, c, d, rfl⟩
    have hmm : m = body ++ [c0, c1, c2, c3] := by rw [hbody, ← hc, List.take_append_drop]
    have hlen : BitVec.ofNat 16 L = l0.setWidth 16 ||| (l1.setWidth 16 <<< 8) := by
      rw [← hL, BitVec.ofNat_toNat, BitVec.setWidth_eq]; rfl
    have hpay : slice (Config.sof :: ty :: l0 :: l1 :: m ++ [Config.eof]) 4 (3 + L) = body := by
      have := slice_middle [Config.sof, ty, l0, l1] body ([c0, c1, c2, c3] ++ [Config.eof]) (3 + L)
        (by simp; omega)
      rw [hmm]; simpa using this
    have hst : rdLE32 (Config.sof :: ty :: l0 :: l1 :: m ++ [Config.eof]) (4 + L) =
        c0.setWidth 32 ||| (c1.setWidth 32 <<< 8) ||| (c2.setWidth 32 <<< 16) |||
          (c3.setWidth 32 <<< 24) := by
      have e : ∀ k, (Config.sof :: ty :: l0 :: l1 :: m ++ [Config.eof]).getD (4 + L + k) 0 =
          ([c0, c1, c2, c3] ++ [Config.eof]).getD k 0 := by
        intro k
        have hd : (Config.sof :: ty :: l0 :: l1 :: m ++ [Config.eof]) =
            ([Config.sof, ty, l0, l1] ++ body) ++ ([c0, c1, c2, c3] ++ [Config.eof]) := by
          rw [hmm]; simp
        simp only [List.getD_eq_getElem?_getD]
        rw [hd, List.getElem?_append_right (by simp [hbl]; omega)]
        congr 2; simp [hbl]; omega
      unfold rdLE32
      have e0 := e 0
      rw [Nat.add_zero] at e0
      rw [e0, e 1, e 2, e 3]
      rfl
    refine ⟨?_, by rw [hpay, hbl]⟩
    rw [hpay, hst]
    have : (Config.sof :: ty :: l0 :: l1 :: m ++ [Config.eof]).getD 1 0 = ty := rfl
    rw [this]
    unfold frameWith frameBody
    rw [hbl, hlen, split16, split32, hmm]
    simp

/-- The ranges of 00_scope.md R8. -/
theorem legal_bounds {p : Params} (h : p.legal = true) :
    1 ≤ p.maxChunk ∧ p.maxChunk ≤ 65535 ∧ 1 ≤ p.maxAttempts ∧ p.maxAttempts ≤ 255 ∧
      p.crc.poly.getLsbD 0 = true := by
  simpa [Params.legal, and_assoc] using h

/-- What ENCODE accepts fits the Length field and has a Type code (R121). -/
theorem encodeAccepts_length {p : Params} {type : Byte} {body : List Byte} (hp : p.legal = true)
    (h : encodeAccepts p type body = true) : body.length < 65536 ∧ ¬ Config.typeResponse < type := by
  have := legal_bounds hp
  unfold encodeAccepts at h
  split at h
  · rename_i ht; subst ht
    simp at h
    exact ⟨by by_cases h1 : body = [Config.codeStart] <;> by_cases h2 : body = [Config.codeEnd] <;> simp_all, by decide⟩
  split at h
  · rename_i ht; subst ht
    simp at h
    exact ⟨by omega, by decide⟩
  split at h
  · rename_i ht; subst ht
    simp at h
    exact ⟨by omega, by decide⟩
  split at h
  · rename_i ht; subst ht
    simp at h
    exact ⟨by by_cases h1 : body = [Config.codeAck] <;> simp_all, by decide⟩
  · simp at h

/-- The kind of a kind's Type code and payload is the kind (30_encoding.md R83). -/
theorem kindOf_typeCode_payload (i : Instr) : kindOf (typeCode i) (payload i) = some i := by
  cases i with
  | cmdStart => rfl
  | cmdEnd => rfl
  | cmdCancel => rfl
  | rspAck => rfl
  | rspNack => rfl
  | data chunk => simp [kindOf, typeCode, payload, Config.typeCommand, Config.typeData]
  | header a b c d =>
    have h0 := rdLE32_le32 a [] (le32 b ++ le32 c ++ le32 d)
    have h1 := rdLE32_le32 b (le32 a) (le32 c ++ le32 d)
    have h2 := rdLE32_le32 c (le32 a ++ le32 b) (le32 d)
    have h3 := rdLE32_le32 d (le32 a ++ le32 b ++ le32 c) []
    simp at h0 h1 h2 h3
    simp [kindOf, typeCode, payload, Config.typeCommand, Config.typeData, Config.typeHeader, h0, h1, h2, h3]

/-- ENCODE accepts a well-formed kind (R121). -/
theorem wf_accepts {p : Params} {i : Instr} (h : i.wf p = true) :
    encodeAccepts p (typeCode i) (payload i) = true := by
  cases i with
  | cmdStart => rfl
  | cmdEnd => rfl
  | cmdCancel => rfl
  | rspAck => rfl
  | rspNack => rfl
  | data chunk => exact h
  | header a b c d => simp [encodeAccepts, typeCode, payload, Config.typeCommand, Config.typeHeader]

/-- A Type code and payload of a kind are that kind's. -/
theorem kindOf_inv {type : Byte} {body : List Byte} {i : Instr} (h : kindOf type body = some i) :
    typeCode i = type ∧ payload i = body := by
  unfold kindOf at h
  split at h
  · rename_i ht; subst ht
    split at h
    · rename_i hb; subst hb; cases h; exact ⟨rfl, rfl⟩
    split at h
    · rename_i hb; subst hb; cases h; exact ⟨rfl, rfl⟩
    split at h
    · rename_i hb; subst hb; cases h; exact ⟨rfl, rfl⟩
    · cases h
  split at h
  · rename_i ht; subst ht; cases h; exact ⟨rfl, rfl⟩
  split at h
  · rename_i ht; subst ht
    split at h
    · rename_i hb
      cases h
      refine ⟨rfl, ?_⟩
      match body, hb with
      | [b0,b1,b2,b3,b4,b5,b6,b7,b8,b9,b10,b11,b12,b13,b14,b15], _ =>
        simp [payload, rdLE32, split32]
    · cases h
  split at h
  · rename_i ht; subst ht
    split at h
    · rename_i hb; subst hb; cases h; exact ⟨rfl, rfl⟩
    split at h
    · rename_i hb; subst hb; cases h; exact ⟨rfl, rfl⟩
    · cases h
  · cases h

/-- Bytes that DECODE accepts are the frame of their packet. -/
theorem decodeFrame_ok_inv {c : CrcParams} {b : List Byte} {pkt : Packet} (h : decodeFrame c b = .ok pkt) :
    b = buildFrame c pkt.type pkt.payload ∧ pkt.payload.length < 65536 ∧ decodeShapeError b = none := by
  unfold decodeFrame at h
  split at h
  · cases h
  · rename_i hs
    simp only at h
    split at h
    · cases h
    · rename_i hc
      split at h
      · cases h
      · cases h
        obtain ⟨he, hl⟩ := eq_frameWith_of_shape b hs
        have hlt : (slice b 4 (3 + (rdLE16 b 2).toNat)).length < 65536 := by
          rw [hl]; exact (rdLE16 b 2).isLt
        refine ⟨?_, hlt, hs⟩
        push Not at hc
        simp only
        rw [buildFrame_eq_frameWith]
        have hcov := frameWith_covered (b.getD 1 0) (slice b 4 (3 + (rdLE16 b 2).toNat))
          (rdLE32 b (4 + (rdLE16 b 2).toNat)) hlt
        rw [← he] at hcov
        rw [← hcov, hc]
        exact he

/-- Bytes that decode to a kind are that kind's frame. -/
theorem decode_ok_inv {p : Params} {b : List Byte} {i : Instr} (h : decode p b = .ok i) :
    b = buildFrame p.crc (typeCode i) (payload i) ∧ (payload i).length < 65536 := by
  unfold decode at h
  split at h
  · cases h
  · rename_i pkt hp
    split at h
    · rename_i j hk
      cases h
      obtain ⟨h1, h2⟩ := kindOf_inv hk
      obtain ⟨h3, h4, _⟩ := decodeFrame_ok_inv hp
      rw [h1, h2]; exact ⟨h3, h4⟩
    · cases h

/-- No kind has a Type code above Response (R74). -/
theorem typeCode_le (i : Instr) : ¬ Config.typeResponse < typeCode i := by
  cases i <;> simp only [typeCode] <;> decide

/-- ENCODE of a well-formed kind (R120). -/
theorem encode_eq_of_wf {p : Params} {i : Instr} (h : i.wf p = true) :
    encode p i = some (buildFrame p.crc (typeCode i) (payload i)) := by
  unfold encode encodePacket
  rw [if_pos (wf_accepts h)]

/-- The frame of a kind as it stands in a byte stream. -/
theorem wireFrame_eq {p : Params} {i : Instr} (h : (payload i).length < 65536) :
    wireFrame p i = some (buildFrame p.crc (typeCode i) (payload i)) := by
  unfold wireFrame
  rw [if_pos h]

/-- A frame has 9 + L bytes (30_encoding.md R70). -/
theorem buildFrame_length (c : CrcParams) (type : Byte) (body : List Byte) :
    (buildFrame c type body).length = 9 + body.length := by
  rw [buildFrame_eq_frameWith]; simp

end Sys2Proof.Machine
end

