-- ==== Sys2Proof/Laws/Crc.lean ====
section
/-! SUPPORT. The CRC engine: its register operations over a sequence, and what they do not lose. -/

namespace Sys2Proof.Machine

/-- CRC_UPDATE of every byte of a sequence writes `crc_reg` alone. -/
theorem opCrcUpdates_eq (bytes : List Byte) (s : State) :
    opCrcUpdates bytes s = { s with crcReg := bytes.foldl (crcUpdate s.params.crc) s.crcReg } := by
  induction bytes generalizing s with
  | nil => rfl
  | cons b bs ih => rw [opCrcUpdates, ih]; rfl

/-- With an odd polynomial one shift loses nothing. -/
theorem crcShift_injective (poly : U32) (h : poly.getLsbD 0 = true) {a b : U32}
    (hab : crcShift poly a = crcShift poly b) : a = b := by
  have bit0 : ∀ r : U32, (crcShift poly r).getLsbD 0 = r.msb := by
    intro r
    unfold crcShift
    split <;> simp_all
  have hm : a.msb = b.msb := by rw [← bit0 a, ← bit0 b, hab]
  have hs : a <<< 1 = b <<< 1 := by
    unfold crcShift at hab
    rw [hm] at hab
    split at hab
    · have := congrArg (· ^^^ poly) hab
      simpa [BitVec.xor_assoc] using this
    · exact hab
  apply BitVec.eq_of_getLsbD_eq
  intro i hi
  by_cases h31 : i = 31
  · subst h31
    simpa [BitVec.msb_eq_getLsbD_last] using hm
  · have := congrArg (fun v : U32 => v.getLsbD (i + 1)) hs
    have h2 : i + 1 < 32 := by omega
    simpa [h2, BitVec.getLsbD_eq_getElem, hi] using this

/-- Nor do several shifts. -/
theorem crcShifts_injective (poly : U32) (h : poly.getLsbD 0 = true) (n : Nat) {a b : U32}
    (hab : crcShifts poly n a = crcShifts poly n b) : a = b := by
  induction n generalizing a b with
  | zero => exact hab
  | succ n ih => exact crcShift_injective poly h (ih hab)

/-- Different registers stay different under one byte. -/
theorem crcUpdate_reg_injective (c : CrcParams) (h : c.poly.getLsbD 0 = true) (x : Byte) {a b : U32}
    (hab : crcUpdate c a x = crcUpdate c b x) : a = b := by
  have := crcShifts_injective c.poly h 8 hab
  exact (BitVec.xor_left_inj _).mp this

/-- Bit reversal of a byte loses nothing. -/
theorem reflect8_injective {a b : Byte} (h : reflect8 a = reflect8 b) : a = b := by
  have := congrArg BitVec.reverse h
  simpa [reflect8] using this

/-- Bit reversal of a 32-bit value loses nothing. -/
theorem reflect32_injective {a b : U32} (h : reflect32 a = reflect32 b) : a = b := by
  have := congrArg BitVec.reverse h
  simpa [reflect32] using this

/-- Different bytes give different registers. -/
theorem crcUpdate_byte_injective (c : CrcParams) (h : c.poly.getLsbD 0 = true) (r : U32) {x y : Byte}
    (hxy : crcUpdate c r x = crcUpdate c r y) : x = y := by
  have h1 := crcShifts_injective c.poly h 8 hxy
  have h2 := (BitVec.xor_right_inj _).mp h1
  have h3 : (if c.refin = true then reflect8 x else x) = (if c.refin = true then reflect8 y else y) := by
    apply BitVec.eq_of_getLsbD_eq
    intro i hi
    have := congrArg (fun v : U32 => v.getLsbD (24 + i)) h2
    have hl : 24 + i < 32 := by omega
    have h24 : 24 + i - 24 = i := by omega
    have hi32 : i < 32 := by omega
    simpa [hl, h24, hi32] using this
  split at h3
  · exact reflect8_injective h3
  · exact h3

/-- Different registers stay different under many bytes. -/
theorem foldl_injective (c : CrcParams) (h : c.poly.getLsbD 0 = true) (s : List Byte) {a b : U32}
    (hab : s.foldl (crcUpdate c) a = s.foldl (crcUpdate c) b) : a = b := by
  induction s generalizing a b with
  | nil => exact hab
  | cons x s ih => exact crcUpdate_reg_injective c h x (ih hab)

/-- Different registers give different results. -/
theorem crcFinal_injective (c : CrcParams) {a b : U32} (hab : crcFinal c a = crcFinal c b) : a = b := by
  have := (BitVec.xor_left_inj _).mp hab
  split at this
  · exact reflect32_injective this
  · exact this

end Sys2Proof.Machine
end

