-- ==== Sys2Proof/Laws/PerInstr.lean ====
section
/-! SUPPORT. Facts about every packet kind as syntax, one lemma a constructor. -/

namespace Sys2Proof.Laws.EncodeFrame

open Sys2Proof Sys2Proof.Machine

/-- A well-formed kind has a frame, of nine bytes around its payload, that begins with SOF and the kind's
Type code and ends with EOF (30_encoding.md R70 to R74). -/
def Statement (i : Instr) : Prop :=
  ∀ p : Params, i.wf p = true →
    ∃ f, encode p i = some f ∧ f.length = 9 + (payload i).length ∧
      f[0]? = some 0xAA ∧ f[1]? = some (typeCode i) ∧ f.getLast? = some 0xBB

/-- The frame of any well-formed kind. -/
theorem of_wf (i : Instr) : Statement i := fun _ h =>
  ⟨_, encode_eq_of_wf h, buildFrame_length _ _ _, rfl, rfl,
    List.getLast?_concat (l := Config.sof :: (frameBody (typeCode i) (payload i) ++ le32 _))⟩

theorem cmdStart : Statement .cmdStart := of_wf _
theorem cmdEnd : Statement .cmdEnd := of_wf _
theorem cmdCancel : Statement .cmdCancel := of_wf _
theorem header (size checksum reserved1 reserved2 : U32) :
    Statement (.header size checksum reserved1 reserved2) := of_wf _
theorem data (chunk : List Byte) : Statement (.data chunk) := of_wf _
theorem rspAck : Statement .rspAck := of_wf _
theorem rspNack : Statement .rspNack := of_wf _

end Sys2Proof.Laws.EncodeFrame
end

