-- ==== Sys2Proof/Laws/Session.lean ====
section
/-! SUPPORT. The receive stream and the operations of the transfer session
(42_transfer_session.md section 2), each with what it does. -/

namespace Sys2Proof.Machine

/-- A read that finds its bytes takes them. -/
theorem readFrom_bytes (b arrived : List Byte) (rest : List RxEvent) :
    readFrom b.length arrived (b.map RxEvent.byte ++ rest) = .bytes (arrived ++ b) rest := by
  induction b generalizing arrived with
  | nil => cases rest <;> simp [readFrom]
  | cons x b ih =>
    simp only [List.map_cons, List.cons_append, List.length_cons, readFrom]
    rw [if_neg (by omega), Nat.add_sub_cancel, ih]
    simp

/-- A stream that begins with `n` bytes answers the read of `n` bytes with them. -/
theorem rxReadExact_bytes (b : List Byte) (rest : List RxEvent) (n : Nat) (h : b.length = n) :
    rxReadExact n (b.map RxEvent.byte ++ rest) = .bytes b rest := by
  subst h; simpa [rxReadExact] using readFrom_bytes b [] rest

/-- Every answered read, with what it met. -/
theorem readFrom_spec (n : Nat) (arrived : List Byte) (stream : List RxEvent) :
    match readFrom n arrived stream with
    | .bytes b rest => ∃ m, m.length = n ∧ b = arrived ++ m ∧ stream = m.map RxEvent.byte ++ rest
    | .timeout rest => ∃ (m : List Byte) (k : Nat) (tail : List RxEvent), m.length < n ∧
        stream = m.map RxEvent.byte ++ RxEvent.timeout k :: tail ∧
        rest = ((arrived ++ m).drop k).map RxEvent.byte ++ tail
    | .error rest => ∃ (m : List Byte) (k : Nat) (tail : List RxEvent), m.length < n ∧
        stream = m.map RxEvent.byte ++ RxEvent.error k :: tail ∧
        rest = ((arrived ++ m).drop k).map RxEvent.byte ++ tail
    | .waiting => ∃ m : List Byte, m.length < n ∧ stream = m.map RxEvent.byte := by
  induction stream generalizing n arrived with
  | nil =>
    unfold readFrom
    split_ifs with h
    · exact ⟨[], by simp [h]⟩
    · exact ⟨[], by simp; omega, rfl⟩
  | cons e rest ih =>
    unfold readFrom
    split_ifs with h
    · exact ⟨[], by simp [h]⟩
    · cases e with
      | byte x =>
        have := ih (n - 1) (arrived ++ [x])
        simp only
        split at this
        · obtain ⟨m, h1, h2, h3⟩ := this
          exact ⟨x :: m, by simp; omega, by simp [h2], by simp [h3]⟩
        · obtain ⟨m, k, tail, h1, h2, h3⟩ := this
          exact ⟨x :: m, k, tail, by simp; omega, by simp [h2], by simp [h3]⟩
        · obtain ⟨m, k, tail, h1, h2, h3⟩ := this
          exact ⟨x :: m, k, tail, by simp; omega, by simp [h2], by simp [h3]⟩
        · obtain ⟨m, h1, h2⟩ := this
          exact ⟨x :: m, by simp; omega, by simp [h2]⟩
      | timeout k => exact ⟨[], k, rest, by simp; omega, by simp, by simp⟩
      | error k => exact ⟨[], k, rest, by simp; omega, by simp, by simp⟩

/-- RX when ten bytes stand at the head of the stream (42_transfer_session.md R166). -/
theorem receiveStep_bytes (b : List Byte) (rest : List RxEvent) (s : State) (h : b.length = 10)
    (hr : s.rx = b.map RxEvent.byte ++ rest) :
    receiveStep s = receive b { s with rx := rest } := by
  unfold receiveStep
  rw [hr, rxReadExact_bytes b rest Config.rspFrameLen h]

/-- CLASSIFY of a whole frame (R167). -/
theorem classify_frame (c : CrcParams) (type : Byte) (body : List Byte) (h : body.length < 65536)
    (ht : ¬ Config.typeResponse < type) :
    classify c (buildFrame c type body) =
      if type ≠ Config.typeResponse then .malformed .wrongType
      else if body = [Config.codeAck] then .ack
      else if body = [Config.codeNack] then .nack
      else .malformed .badCode := by
  unfold classify
  rw [buildFrame_eq_frameWith, decodeFrame_frameWith _ _ _ _ h]
  simp [ht]

/-- exec of every kind is its exchange, but for the Cancel command under the cancel input. -/
theorem exec_eq_exchange (i : Instr) (s : State) (hl : s.params.legal = true)
    (hc : i = .cmdCancel → (s.inp.cancel && !s.st.terminal) = false) : exec i s = exchange i s := by
  cases i with
  | cmdCancel =>
    simp only [exec, execCmdCancel, withLegalParams, hl, if_true]
    rw [hc rfl]; rfl
  | _ => simp [exec, execCmdStart, execCmdEnd, execHeader, execData, execRspAck, execRspNack, withLegalParams, hl]

/-- An exchange in phase TX sends the frame of the kind (R165). -/
theorem exchange_tx (i : Instr) (s : State) (ha : s.st.active = true) (hp : s.ph = .tx)
    (hw : i.wf s.params = true) :
    exchange i s = .next (sendFrame (buildFrame s.params.crc (typeCode i) (payload i)) s) := by
  simp [exchange, ha, hp, encode_eq_of_wf hw]

/-- An exchange in phase RX meets the frame of the kind as the response (R166). -/
theorem exchange_rx (i : Instr) (s : State) (ha : s.st.active = true) (hp : s.ph = .rx)
    (hw : (payload i).length < 65536) :
    exchange i s = receiveStep { s with rx := (buildFrame s.params.crc (typeCode i) (payload i)).map .byte ++ s.rx } := by
  simp [exchange, ha, hp, wireFrame_eq hw]

/-- A kind with a one-byte payload, met as a response. -/
theorem exchange_rx_short (i : Instr) (s : State) (ha : s.st.active = true) (hp : s.ph = .rx)
    (hw : (payload i).length = 1) :
    exchange i s = receive (buildFrame s.params.crc (typeCode i) (payload i)) s := by
  rw [exchange_rx i s ha hp (by omega),
    receiveStep_bytes (buildFrame s.params.crc (typeCode i) (payload i)) s.rx _ (by rw [buildFrame_length]; omega) rfl]

/-- The ACK frame advances the session (R166 to R168). -/
theorem receive_ack (s : State) :
    receive (buildFrame s.params.crc Config.typeResponse [Config.codeAck]) s =
      advance { s with crcReg := crcRun s.params.crc (frameBody Config.typeResponse [Config.codeAck]) } := by
  unfold receive
  rw [classify_frame _ _ _ (by simp) (by decide),
    decodeCrcReg_buildFrame _ _ _ _ (by simp) (by decide)]
  simp

/-- Any other ten bytes go to RETRY_OR_FAIL (R169). -/
theorem receive_not_ack (b : List Byte) (s : State) (h : classify s.params.crc b ≠ .ack) :
    receive b s = .next (retryOrFail (classify s.params.crc b)
      (decodeCrcReg s.params.crc b s.crcReg) s) := by
  unfold receive; simp [h]

/-- RSP_ACK in phase RX (R127). -/
theorem exec_ack (s : State) (hl : s.params.legal = true) (ha : s.st.active = true) (hp : s.ph = .rx) :
    exec .rspAck s = advance { s with crcReg := crcRun s.params.crc (frameBody Config.typeResponse [Config.codeAck]) } := by
  rw [exec_eq_exchange .rspAck s hl (by simp), exchange_rx_short .rspAck s ha hp rfl]
  exact receive_ack s

/-- loadFrame of a well-formed kind. -/
theorem loadFrame_next (i : Instr) (st : SessionState) (s : State) (h : i.wf s.params = true) :
    loadFrame i st s = .next
      { s with frame := buildFrame s.params.crc (typeCode i) (payload i), st := st,
               crcReg := crcRun s.params.crc (frameBody (typeCode i) (payload i)) } := by
  unfold loadFrame encodeInto
  rw [encode_eq_of_wf h]; rfl

/-- loadChunk inside the image (20_memory.md R52). -/
theorem loadChunk_next (off n : Nat) (s : State) (h : off + n ≤ s.img.length) (hn : n ≤ s.params.maxChunk) :
    loadChunk off n s = .next
      { s with chunkLen := BitVec.ofNat 16 n, st := .sendingData,
               frame := buildFrame s.params.crc Config.typeData ((s.img.drop off).take n),
               crcReg := crcRun s.params.crc (frameBody Config.typeData ((s.img.drop off).take n)) } := by
  unfold loadChunk imgRead
  rw [if_pos h]
  simp only
  rw [loadFrame_next]
  · rfl
  · simp [Instr.wf]; omega

/-- loadChunk beyond the image (R52). -/
theorem loadChunk_fault (off n : Nat) (s : State) (h : s.img.length < off + n) :
    loadChunk off n s = .fault .imageRange := by
  unfold loadChunk imgRead
  rw [if_neg (by omega)]

/-- BEGIN with a readable image that the size field can announce (R162). -/
theorem begin_ok (s : State) (bytes : List Byte) (hb : bytes.length ≤ 4294967295) :
    beginSession (.image bytes) s = .next
      { s with st := .starting, ph := .tx, attempt := 0, img := bytes,
               imgSize := BitVec.ofNat 32 bytes.length, imgCrc := crcCompute s.params.crc bytes,
               bytesSent := 0, chunkLen := 0, frame := buildFrame s.params.crc 0x00 [0x00],
               cause := .none, txAny := false, own := true,
               crcReg := crcRun s.params.crc (frameBody 0x00 [0x00]) } := by
  unfold beginSession
  simp only
  rw [if_neg (by unfold Config.maxImage; omega)]
  simp only [opCrcCompute, opCrcUpdates_eq]
  rw [loadFrame_next _ _ _ rfl]
  rfl

end Sys2Proof.Machine
end

