-- ==== Sys2Proof/Laws/State.lean ====
section
/-! SUPPORT. What each named update of the state does to each field, once: no later proof unfolds a record
update. -/

namespace Sys2Proof.Machine

@[simp] theorem emit_params (e : PortEvent) (s : State) : (emit e s).params = s.params := rfl
@[simp] theorem emit_crcReg (e : PortEvent) (s : State) : (emit e s).crcReg = s.crcReg := rfl
@[simp] theorem emit_st (e : PortEvent) (s : State) : (emit e s).st = s.st := rfl
@[simp] theorem emit_ph (e : PortEvent) (s : State) : (emit e s).ph = s.ph := rfl
@[simp] theorem emit_attempt (e : PortEvent) (s : State) : (emit e s).attempt = s.attempt := rfl
@[simp] theorem emit_imgSize (e : PortEvent) (s : State) : (emit e s).imgSize = s.imgSize := rfl
@[simp] theorem emit_imgCrc (e : PortEvent) (s : State) : (emit e s).imgCrc = s.imgCrc := rfl
@[simp] theorem emit_bytesSent (e : PortEvent) (s : State) : (emit e s).bytesSent = s.bytesSent := rfl
@[simp] theorem emit_chunkLen (e : PortEvent) (s : State) : (emit e s).chunkLen = s.chunkLen := rfl
@[simp] theorem emit_frame (e : PortEvent) (s : State) : (emit e s).frame = s.frame := rfl
@[simp] theorem emit_cause (e : PortEvent) (s : State) : (emit e s).cause = s.cause := rfl
@[simp] theorem emit_txAny (e : PortEvent) (s : State) : (emit e s).txAny = s.txAny := rfl
@[simp] theorem emit_own (e : PortEvent) (s : State) : (emit e s).own = s.own := rfl
@[simp] theorem emit_inp (e : PortEvent) (s : State) : (emit e s).inp = s.inp := rfl
@[simp] theorem emit_later (e : PortEvent) (s : State) : (emit e s).later = s.later := rfl
@[simp] theorem emit_rx (e : PortEvent) (s : State) : (emit e s).rx = s.rx := rfl
@[simp] theorem emit_img (e : PortEvent) (s : State) : (emit e s).img = s.img := rfl
@[simp] theorem emit_outs (e : PortEvent) (s : State) : (emit e s).outs = s.outs ++ [e] := rfl

@[simp] theorem txWrite_params (b : List Byte) (s : State) : (txWrite b s).params = s.params := rfl
@[simp] theorem txWrite_crcReg (b : List Byte) (s : State) : (txWrite b s).crcReg = s.crcReg := rfl
@[simp] theorem txWrite_st (b : List Byte) (s : State) : (txWrite b s).st = s.st := rfl
@[simp] theorem txWrite_ph (b : List Byte) (s : State) : (txWrite b s).ph = s.ph := rfl
@[simp] theorem txWrite_attempt (b : List Byte) (s : State) : (txWrite b s).attempt = s.attempt := rfl
@[simp] theorem txWrite_imgSize (b : List Byte) (s : State) : (txWrite b s).imgSize = s.imgSize := rfl
@[simp] theorem txWrite_imgCrc (b : List Byte) (s : State) : (txWrite b s).imgCrc = s.imgCrc := rfl
@[simp] theorem txWrite_bytesSent (b : List Byte) (s : State) : (txWrite b s).bytesSent = s.bytesSent := rfl
@[simp] theorem txWrite_chunkLen (b : List Byte) (s : State) : (txWrite b s).chunkLen = s.chunkLen := rfl
@[simp] theorem txWrite_frame (b : List Byte) (s : State) : (txWrite b s).frame = s.frame := rfl
@[simp] theorem txWrite_cause (b : List Byte) (s : State) : (txWrite b s).cause = s.cause := rfl
@[simp] theorem txWrite_txAny (b : List Byte) (s : State) : (txWrite b s).txAny = s.txAny := rfl
@[simp] theorem txWrite_own (b : List Byte) (s : State) : (txWrite b s).own = s.own := rfl
@[simp] theorem txWrite_inp (b : List Byte) (s : State) : (txWrite b s).inp = s.inp := rfl
@[simp] theorem txWrite_later (b : List Byte) (s : State) : (txWrite b s).later = s.later := rfl
@[simp] theorem txWrite_rx (b : List Byte) (s : State) : (txWrite b s).rx = s.rx := rfl
@[simp] theorem txWrite_img (b : List Byte) (s : State) : (txWrite b s).img = s.img := rfl
@[simp] theorem txWrite_outs (b : List Byte) (s : State) :
    (txWrite b s).outs = s.outs ++ [.tx (sentBytes s.inp.txStatus b)] := rfl

@[simp] theorem txClose_params (s : State) : (txClose s).params = s.params := rfl
@[simp] theorem txClose_crcReg (s : State) : (txClose s).crcReg = s.crcReg := rfl
@[simp] theorem txClose_st (s : State) : (txClose s).st = s.st := rfl
@[simp] theorem txClose_ph (s : State) : (txClose s).ph = s.ph := rfl
@[simp] theorem txClose_attempt (s : State) : (txClose s).attempt = s.attempt := rfl
@[simp] theorem txClose_imgSize (s : State) : (txClose s).imgSize = s.imgSize := rfl
@[simp] theorem txClose_imgCrc (s : State) : (txClose s).imgCrc = s.imgCrc := rfl
@[simp] theorem txClose_bytesSent (s : State) : (txClose s).bytesSent = s.bytesSent := rfl
@[simp] theorem txClose_chunkLen (s : State) : (txClose s).chunkLen = s.chunkLen := rfl
@[simp] theorem txClose_frame (s : State) : (txClose s).frame = s.frame := rfl
@[simp] theorem txClose_cause (s : State) : (txClose s).cause = s.cause := rfl
@[simp] theorem txClose_txAny (s : State) : (txClose s).txAny = s.txAny := rfl
@[simp] theorem txClose_own (s : State) : (txClose s).own = s.own := rfl
@[simp] theorem txClose_inp (s : State) : (txClose s).inp = s.inp := rfl
@[simp] theorem txClose_later (s : State) : (txClose s).later = s.later := rfl
@[simp] theorem txClose_rx (s : State) : (txClose s).rx = s.rx := rfl
@[simp] theorem txClose_img (s : State) : (txClose s).img = s.img := rfl
@[simp] theorem txClose_outs (s : State) : (txClose s).outs = s.outs ++ [.close] := rfl

@[simp] theorem failWith_params (c : Cause) (s : State) : (failWith c s).params = s.params := rfl
@[simp] theorem failWith_crcReg (c : Cause) (s : State) : (failWith c s).crcReg = s.crcReg := rfl
@[simp] theorem failWith_st (c : Cause) (s : State) : (failWith c s).st = .failed := rfl
@[simp] theorem failWith_ph (c : Cause) (s : State) : (failWith c s).ph = s.ph := rfl
@[simp] theorem failWith_attempt (c : Cause) (s : State) : (failWith c s).attempt = s.attempt := rfl
@[simp] theorem failWith_imgSize (c : Cause) (s : State) : (failWith c s).imgSize = s.imgSize := rfl
@[simp] theorem failWith_imgCrc (c : Cause) (s : State) : (failWith c s).imgCrc = s.imgCrc := rfl
@[simp] theorem failWith_bytesSent (c : Cause) (s : State) : (failWith c s).bytesSent = s.bytesSent := rfl
@[simp] theorem failWith_chunkLen (c : Cause) (s : State) : (failWith c s).chunkLen = s.chunkLen := rfl
@[simp] theorem failWith_frame (c : Cause) (s : State) : (failWith c s).frame = s.frame := rfl
@[simp] theorem failWith_cause (c : Cause) (s : State) : (failWith c s).cause = c := rfl
@[simp] theorem failWith_txAny (c : Cause) (s : State) : (failWith c s).txAny = s.txAny := rfl
@[simp] theorem failWith_own (c : Cause) (s : State) : (failWith c s).own = false := rfl
@[simp] theorem failWith_inp (c : Cause) (s : State) : (failWith c s).inp = s.inp := rfl
@[simp] theorem failWith_later (c : Cause) (s : State) : (failWith c s).later = s.later := rfl
@[simp] theorem failWith_rx (c : Cause) (s : State) : (failWith c s).rx = s.rx := rfl
@[simp] theorem failWith_img (c : Cause) (s : State) : (failWith c s).img = s.img := rfl
@[simp] theorem failWith_outs (c : Cause) (s : State) : (failWith c s).outs = s.outs ++ [.result (.failed c)] := rfl

@[simp] theorem resetRegs_params (s : State) : (resetRegs s).params = s.params := rfl
@[simp] theorem resetRegs_crcReg (s : State) : (resetRegs s).crcReg = s.params.crc.init := rfl
@[simp] theorem resetRegs_st (s : State) : (resetRegs s).st = .idle := rfl
@[simp] theorem resetRegs_ph (s : State) : (resetRegs s).ph = .tx := rfl
@[simp] theorem resetRegs_attempt (s : State) : (resetRegs s).attempt = 0 := rfl
@[simp] theorem resetRegs_imgSize (s : State) : (resetRegs s).imgSize = 0 := rfl
@[simp] theorem resetRegs_imgCrc (s : State) : (resetRegs s).imgCrc = 0 := rfl
@[simp] theorem resetRegs_bytesSent (s : State) : (resetRegs s).bytesSent = 0 := rfl
@[simp] theorem resetRegs_chunkLen (s : State) : (resetRegs s).chunkLen = 0 := rfl
@[simp] theorem resetRegs_frame (s : State) : (resetRegs s).frame = [] := rfl
@[simp] theorem resetRegs_cause (s : State) : (resetRegs s).cause = .none := rfl
@[simp] theorem resetRegs_txAny (s : State) : (resetRegs s).txAny = false := rfl
@[simp] theorem resetRegs_own (s : State) : (resetRegs s).own = false := rfl
@[simp] theorem resetRegs_inp (s : State) : (resetRegs s).inp = s.inp := rfl
@[simp] theorem resetRegs_later (s : State) : (resetRegs s).later = s.later := rfl
@[simp] theorem resetRegs_rx (s : State) : (resetRegs s).rx = s.rx := rfl
@[simp] theorem resetRegs_img (s : State) : (resetRegs s).img = s.img := rfl
@[simp] theorem resetRegs_outs (s : State) : (resetRegs s).outs = s.outs := rfl

@[simp] theorem takeBegin_params (s : State) : (takeBegin s).params = s.params := rfl
@[simp] theorem takeBegin_crcReg (s : State) : (takeBegin s).crcReg = s.crcReg := rfl
@[simp] theorem takeBegin_st (s : State) : (takeBegin s).st = s.st := rfl
@[simp] theorem takeBegin_ph (s : State) : (takeBegin s).ph = s.ph := rfl
@[simp] theorem takeBegin_attempt (s : State) : (takeBegin s).attempt = s.attempt := rfl
@[simp] theorem takeBegin_imgSize (s : State) : (takeBegin s).imgSize = s.imgSize := rfl
@[simp] theorem takeBegin_imgCrc (s : State) : (takeBegin s).imgCrc = s.imgCrc := rfl
@[simp] theorem takeBegin_bytesSent (s : State) : (takeBegin s).bytesSent = s.bytesSent := rfl
@[simp] theorem takeBegin_chunkLen (s : State) : (takeBegin s).chunkLen = s.chunkLen := rfl
@[simp] theorem takeBegin_frame (s : State) : (takeBegin s).frame = s.frame := rfl
@[simp] theorem takeBegin_cause (s : State) : (takeBegin s).cause = s.cause := rfl
@[simp] theorem takeBegin_txAny (s : State) : (takeBegin s).txAny = s.txAny := rfl
@[simp] theorem takeBegin_own (s : State) : (takeBegin s).own = s.own := rfl
@[simp] theorem takeBegin_inp (s : State) : (takeBegin s).inp = { s.inp with beginReq := none } := rfl
@[simp] theorem takeBegin_later (s : State) : (takeBegin s).later = s.later := rfl
@[simp] theorem takeBegin_rx (s : State) : (takeBegin s).rx = s.rx := rfl
@[simp] theorem takeBegin_img (s : State) : (takeBegin s).img = s.img := rfl
@[simp] theorem takeBegin_outs (s : State) : (takeBegin s).outs = s.outs := rfl

@[simp] theorem loadInputs_params (s : State) : (loadInputs s).params = s.params := by
  unfold loadInputs; split <;> rfl
@[simp] theorem loadInputs_crcReg (s : State) : (loadInputs s).crcReg = s.crcReg := by
  unfold loadInputs; split <;> rfl
@[simp] theorem loadInputs_st (s : State) : (loadInputs s).st = s.st := by
  unfold loadInputs; split <;> rfl
@[simp] theorem loadInputs_ph (s : State) : (loadInputs s).ph = s.ph := by
  unfold loadInputs; split <;> rfl
@[simp] theorem loadInputs_attempt (s : State) : (loadInputs s).attempt = s.attempt := by
  unfold loadInputs; split <;> rfl
@[simp] theorem loadInputs_imgSize (s : State) : (loadInputs s).imgSize = s.imgSize := by
  unfold loadInputs; split <;> rfl
@[simp] theorem loadInputs_imgCrc (s : State) : (loadInputs s).imgCrc = s.imgCrc := by
  unfold loadInputs; split <;> rfl
@[simp] theorem loadInputs_bytesSent (s : State) : (loadInputs s).bytesSent = s.bytesSent := by
  unfold loadInputs; split <;> rfl
@[simp] theorem loadInputs_chunkLen (s : State) : (loadInputs s).chunkLen = s.chunkLen := by
  unfold loadInputs; split <;> rfl
@[simp] theorem loadInputs_frame (s : State) : (loadInputs s).frame = s.frame := by
  unfold loadInputs; split <;> rfl
@[simp] theorem loadInputs_cause (s : State) : (loadInputs s).cause = s.cause := by
  unfold loadInputs; split <;> rfl
@[simp] theorem loadInputs_txAny (s : State) : (loadInputs s).txAny = s.txAny := by
  unfold loadInputs; split <;> rfl
@[simp] theorem loadInputs_own (s : State) : (loadInputs s).own = s.own := by
  unfold loadInputs; split <;> rfl
@[simp] theorem loadInputs_img (s : State) : (loadInputs s).img = s.img := by
  unfold loadInputs; split <;> rfl
@[simp] theorem loadInputs_outs (s : State) : (loadInputs s).outs = s.outs := by
  unfold loadInputs; split <;> rfl

/-- Without further port levels the environment keeps the present ones (log 4). -/
@[simp] theorem loadInputs_of_later_nil (s : State) (h : s.later = []) : loadInputs s = s := by
  unfold loadInputs; rw [h]

/-- TX with an accepted write (R165). -/
theorem sendFrame_ok (f : List Byte) (s : State) (h : s.inp.txStatus = .ok) :
    sendFrame f s =
      { s with attempt := s.attempt + 1, txAny := true, ph := .rx, outs := s.outs ++ [.tx f] } := by
  simp [sendFrame, h, txWrite, emit, sentBytes]

/-- TX with a failed write (R165, R176). -/
theorem sendFrame_error (f : List Byte) (s : State) (n : Nat) (h : s.inp.txStatus = .error n) :
    sendFrame f s =
      { s with attempt := s.attempt + 1, txAny := true, cause := .transport, st := .failed, own := false,
               outs := s.outs ++ [.tx (f.take n), .result (.failed .transport)] } := by
  simp [sendFrame, h, txWrite, emit, sentBytes, failWith]

@[simp] theorem sendFrame_params (f : List Byte) (s : State) : (sendFrame f s).params = s.params := by
  unfold sendFrame; split <;> rfl

@[simp] theorem sendFrame_later (f : List Byte) (s : State) : (sendFrame f s).later = s.later := by
  unfold sendFrame; split <;> rfl

/-- RETRY_OR_FAIL with an attempt left (R169). -/
theorem retryOrFail_lt (o : AttemptOutcome) (reg : U32) (s : State)
    (h : s.attempt.toNat < s.params.maxAttempts) :
    retryOrFail o reg s = { s with ph := .tx, crcReg := reg } := by
  simp [retryOrFail, h]

/-- RETRY_OR_FAIL with the attempts used up (R169, R170). -/
theorem retryOrFail_ge (o : AttemptOutcome) (reg : U32) (s : State)
    (h : s.params.maxAttempts ≤ s.attempt.toNat) :
    retryOrFail o reg s = failWith (causeOf o) s := by
  simp [retryOrFail, Nat.not_lt.mpr h]

end Sys2Proof.Machine
end

