-- ==== Sys2Proof/Laws/Step.lean ====
section
/-! SUPPORT. What one step can do, said once: every case of an ACK and of a whole step. -/

namespace Sys2Proof.Machine

/-- A whole exchange step does with the packet it fetched what TX and RX do with the bytes. -/
theorem exchangeStep_eq (s : State) (hl : s.params.legal = true) (ha : s.st.active = true)
    (hc : s.inp.cancel = false) :
    (match fetch s with
     | some (i, t) => exec i t
     | none => exchangeRaw s) = exchangeRaw s := by
  cases hf : fetch s with
  | none => rfl
  | some it =>
    obtain ⟨i, t⟩ := it
    simp only
    unfold fetch at hf
    split at hf
    · rename_i hp
      simp only [Option.map_eq_some_iff] at hf
      obtain ⟨j, hj, he⟩ := hf
      cases he
      unfold instrAt at hj
      split at hj
      · rename_i k hd
        split at hj
        · rename_i hw
          cases hj
          rw [exec_eq_exchange i s hl (by simp [hc]), exchange_tx i s ha hp hw, ← (decode_ok_inv hd).1]
          simp [exchangeRaw, hp]
        · cases hj
      · cases hj
    · rename_i hp
      split at hf
      · rename_i b rest hb
        simp only [Option.map_eq_some_iff] at hf
        obtain ⟨j, hj, he⟩ := hf
        cases he
        unfold instrAt at hj
        split at hj
        · rename_i k hd
          split at hj
          · cases hj
            have hs := readFrom_spec Config.rspFrameLen [] s.rx
            rw [show readFrom Config.rspFrameLen [] s.rx = _ from hb] at hs
            obtain ⟨m, h1, h2, h3⟩ := hs
            simp only [List.nil_append] at h2
            subst h2
            obtain ⟨hbf, hlen⟩ := decode_ok_inv hd
            rw [exec_eq_exchange i { s with rx := rest } hl (by simp [hc]),
              exchange_rx i { s with rx := rest } ha hp hlen]
            have hx : exchangeRaw s = receiveStep s := by unfold exchangeRaw; split <;> simp_all
            rw [hx, ← hbf, ← h3]
          · cases hj
        · cases hj
      all_goals cases hf

/-- In states 1 to 4, left alone, the selected step is TX or RX. -/
theorem stepSelected_exchange (s : State) (hl : s.params.legal = true) (ha : s.st.active = true)
    (hr : s.inp.reset = false) (hc : s.inp.cancel = false) : stepSelected s = exchangeRaw s := by
  have hsel : selectStep s = .exchange := by
    unfold selectStep
    cases hs : s.st <;> simp_all [SessionState.terminal, SessionState.active]
  unfold stepSelected
  rw [hsel]
  exact exchangeStep_eq s hl ha hc

/-- A step in states 1 to 4, left alone. -/
theorem step_exchange (s : State) (hl : s.params.legal = true) (ha : s.st.active = true)
    (hr : s.inp.reset = false) (hc : s.inp.cancel = false) :
    step s = mapNext loadInputs (exchangeRaw s) := by
  unfold step withLegalParams
  rw [if_pos hl, stepSelected_exchange s hl ha hr hc]

/-- What the ACK of the current packet does (ADVANCE), one constructor a case; `rest` is what the response
read leaves in the receive stream. -/
inductive AckCase (s : State) (rest : List RxEvent) : State → Prop where
  | header (hs : s.st = .starting) :
      AckCase s rest
        { s with rx := rest, attempt := 0, ph := .tx, st := .awaitHeaderAck,
                 frame := buildFrame s.params.crc Config.typeHeader (payload (.header s.imgSize s.imgCrc 0 0)),
                 crcReg := encodeCrcReg s.params (.header s.imgSize s.imgCrc 0 0) }
  | noImage (hs : s.st = .awaitHeaderAck) (h0 : s.imgSize = 0) :
      AckCase s rest
        { s with rx := rest, attempt := 0, ph := .tx, st := .awaitEndAck,
                 frame := buildFrame s.params.crc Config.typeCommand [Config.codeEnd],
                 crcReg := encodeCrcReg s.params .cmdEnd }
  | firstChunk (hs : s.st = .awaitHeaderAck) (h0 : s.imgSize ≠ 0) (n : Nat)
      (hn : n = min s.params.maxChunk s.imgSize.toNat) (hi : n ≤ s.img.length) :
      AckCase s rest
        { s with rx := rest, attempt := 0, ph := .tx, st := .sendingData, chunkLen := BitVec.ofNat 16 n,
                 frame := buildFrame s.params.crc Config.typeData (s.img.take n),
                 crcReg := encodeCrcReg s.params (.data (s.img.take n)) }
  | lastChunk (hs : s.st = .sendingData) (sent : U32) (hb : sent = s.bytesSent + s.chunkLen.setWidth 32)
      (h0 : sent = s.imgSize) :
      AckCase s rest
        { s with rx := rest, attempt := 0, ph := .tx, st := .awaitEndAck, bytesSent := sent,
                 frame := buildFrame s.params.crc Config.typeCommand [Config.codeEnd],
                 crcReg := encodeCrcReg s.params .cmdEnd, outs := s.outs ++ [.progress sent] }
  | nextChunk (hs : s.st = .sendingData) (sent : U32) (hb : sent = s.bytesSent + s.chunkLen.setWidth 32)
      (h0 : sent ≠ s.imgSize) (n : Nat) (hn : n = min s.params.maxChunk (s.imgSize - sent).toNat)
      (hi : sent.toNat + n ≤ s.img.length) :
      AckCase s rest
        { s with rx := rest, attempt := 0, ph := .tx, st := .sendingData, bytesSent := sent,
                 chunkLen := BitVec.ofNat 16 n,
                 frame := buildFrame s.params.crc Config.typeData ((s.img.drop sent.toNat).take n),
                 crcReg := encodeCrcReg s.params (.data ((s.img.drop sent.toNat).take n)),
                 outs := s.outs ++ [.progress sent] }
  | complete (hs : s.st = .awaitEndAck) :
      AckCase s rest
        { s with rx := rest, attempt := 0, ph := .tx, st := .complete, own := false,
                 crcReg := encodeCrcReg s.params .rspAck,
                 outs := s.outs ++ [.result .complete] }

/-- Say once what an ACK can do. -/
theorem ack_cases {s u : State} {rest : List RxEvent} (ha : s.st.active = true)
    (h : advance { s with rx := rest, crcReg := encodeCrcReg s.params .rspAck } = .next u) :
    AckCase s rest u := by
  unfold advance at h
  simp only at h
  split at h <;> rename_i hs
  · unfold advanceStarting at h
    rw [loadFrame_next _ _ _ rfl] at h
    cases h; exact .header hs
  · unfold advanceHeader at h
    split at h
    · rename_i h0
      rw [loadFrame_next _ _ _ rfl] at h
      cases h; exact .noImage hs h0
    · rename_i h0
      by_cases hi : min s.params.maxChunk s.imgSize.toNat ≤ s.img.length
      · rw [loadChunk_next _ _ _
          (by show 0 + min s.params.maxChunk s.imgSize.toNat ≤ s.img.length; omega) (by simp)] at h
        cases h; exact .firstChunk hs h0 _ rfl hi
      · rw [loadChunk_fault _ _ _
          (by show s.img.length < 0 + min s.params.maxChunk s.imgSize.toNat; omega)] at h
        cases h
  · unfold advanceData at h
    simp only at h
    split at h
    · rename_i h0
      rw [loadFrame_next _ _ _ rfl] at h
      cases h; exact .lastChunk hs _ rfl h0
    · rename_i h0
      by_cases hi : (s.bytesSent + s.chunkLen.setWidth 32).toNat +
          min s.params.maxChunk (s.imgSize - (s.bytesSent + s.chunkLen.setWidth 32)).toNat ≤
            s.img.length
      · rw [loadChunk_next _ _ _ (by exact hi) (by simp)] at h
        cases h; exact .nextChunk hs _ rfl h0 _ rfl hi
      · rw [loadChunk_fault _ _ _ (by exact Nat.lt_of_not_le hi)] at h
        cases h
  · cases h; exact .complete hs
  all_goals
    rw [show s.st = _ from hs] at ha; cases ha

/-- The response read ends in the outcome `o` that is no ACK, leaving `rest` in the receive stream; `reg` is
the CRC register that DECODE leaves, if the step does not fail. -/
inductive NotAcked (s : State) : AttemptOutcome → List RxEvent → U32 → Prop where
  | timeout (rest : List RxEvent) (h : rxReadExact Config.rspFrameLen s.rx = .timeout rest) :
      NotAcked s .timeout rest s.crcReg
  | bytes (b : List Byte) (rest : List RxEvent) (h : rxReadExact Config.rspFrameLen s.rx = .bytes b rest)
      (hc : classify s.params.crc b ≠ .ack) :
      NotAcked s (classify s.params.crc b) rest (decodeCrcReg s.params.crc b s.crcReg)

/-- Everything one step can do before the environment applies the next port levels, one constructor a case,
with what holds where it is taken. -/
inductive StepCase (s : State) : State → Prop where
  | reset (h : s.inp.reset = true) : StepCase s (resetRegs s)
  | noStep (hr : s.inp.reset = false) (ha : s.st.active = false)
      (hn : s.st.terminal = true ∨ s.inp.cancel = false ∧ s.inp.beginReq = none) : StepCase s s
  | cancelIdle (hr : s.inp.reset = false) (hc : s.inp.cancel = true) (hs : s.st = .idle) :
      StepCase s (failWith .cancelled s)
  | cancelSilent (hr : s.inp.reset = false) (hc : s.inp.cancel = true) (ha : s.st.active = true)
      (hx : s.txAny = false) :
      StepCase s (failWith .cancelled (if s.own then txClose s else s))
  | cancelSent (hr : s.inp.reset = false) (hc : s.inp.cancel = true) (ha : s.st.active = true)
      (hx : s.txAny = true) (u : State)
      (hu : u = txWrite (buildFrame s.params.crc Config.typeCommand [Config.cancelCode]) s) :
      StepCase s (failWith .cancelled (if u.own then txClose u else u))
  | beginFail (hr : s.inp.reset = false) (hc : s.inp.cancel = false) (hs : s.st = .idle) (src : Source)
      (hb : s.inp.beginReq = some src)
      (hf : src = .unreadable ∨ ∃ bytes, src = .image bytes ∧ 4294967295 < bytes.length) :
      StepCase s (failWith .file (takeBegin s))
  | beginOk (hr : s.inp.reset = false) (hc : s.inp.cancel = false) (hs : s.st = .idle)
      (bytes : List Byte) (hb : s.inp.beginReq = some (.image bytes)) (hl : bytes.length ≤ 4294967295) :
      StepCase s
        { s with st := .starting, ph := .tx, attempt := 0, img := bytes,
                 imgSize := BitVec.ofNat 32 bytes.length, imgCrc := crcCompute s.params.crc bytes,
                 bytesSent := 0, chunkLen := 0,
                 frame := buildFrame s.params.crc Config.typeCommand [Config.codeStart],
                 cause := .none, txAny := false, own := true,
                 crcReg := encodeCrcReg s.params .cmdStart,
                 inp := { s.inp with beginReq := none } }
  | sent (hr : s.inp.reset = false) (hc : s.inp.cancel = false) (ha : s.st.active = true)
      (hp : s.ph = .tx) (ht : s.inp.txStatus = .ok) :
      StepCase s
        { s with attempt := s.attempt + 1, txAny := true, ph := .rx, outs := s.outs ++ [.tx s.frame] }
  | sendFailed (hr : s.inp.reset = false) (hc : s.inp.cancel = false) (ha : s.st.active = true)
      (hp : s.ph = .tx) (n : Nat) (ht : s.inp.txStatus = .error n) :
      StepCase s
        { s with attempt := s.attempt + 1, txAny := true, cause := .transport, st := .failed, own := false,
                 outs := s.outs ++ [.tx (s.frame.take n), .result (.failed .transport)] }
  | waits (hr : s.inp.reset = false) (hc : s.inp.cancel = false) (ha : s.st.active = true)
      (hp : s.ph = .rx) (hw : rxReadExact Config.rspFrameLen s.rx = .waiting) : StepCase s s
  | readFailed (hr : s.inp.reset = false) (hc : s.inp.cancel = false) (ha : s.st.active = true)
      (hp : s.ph = .rx) (rest : List RxEvent)
      (hx : rxReadExact Config.rspFrameLen s.rx = .error rest) :
      StepCase s (failWith .transport { s with rx := rest })
  | retry (hr : s.inp.reset = false) (hc : s.inp.cancel = false) (ha : s.st.active = true)
      (hp : s.ph = .rx) (o : AttemptOutcome) (rest : List RxEvent) (reg : U32) (ho : NotAcked s o rest reg)
      (hat : s.attempt.toNat < s.params.maxAttempts) :
      StepCase s { s with rx := rest, ph := .tx, crcReg := reg }
  | exhausted (hr : s.inp.reset = false) (hc : s.inp.cancel = false) (ha : s.st.active = true)
      (hp : s.ph = .rx) (o : AttemptOutcome) (rest : List RxEvent) (reg : U32) (ho : NotAcked s o rest reg)
      (hat : s.params.maxAttempts ≤ s.attempt.toNat) :
      StepCase s (failWith (causeOf o) { s with rx := rest })
  | acked (hr : s.inp.reset = false) (hc : s.inp.cancel = false) (ha : s.st.active = true)
      (hp : s.ph = .rx) (rest : List RxEvent)
      (hx : s.rx = (ackFrame s.params).map RxEvent.byte ++ rest) (u : State)
      (hu : AckCase s rest u) : StepCase s u

/-- Only the ACK frame is classified as ACK. -/
theorem classify_ack {p : Params} {b : List Byte} (h : classify p.crc b = .ack) : b = ackFrame p := by
  unfold classify at h
  split at h
  · cases h
  · rename_i pkt hd
    split at h
    · cases h
    split at h
    · rename_i h1 h2
      have := (decodeFrame_ok_inv hd).1
      push Not at h1
      rw [h1, h2] at this; exact this
    split at h <;> cases h

/-- Every outcome but ACK has a cause (R170). -/
theorem causeOf_ne_none {o : AttemptOutcome} (h : o ≠ .ack) : causeOf o ≠ .none := by
  cases o <;> simp_all [causeOf]

/-- A next state of a changed outcome. -/
theorem mapNext_next {f : State → State} {o : StepOutcome} {t : State} (h : mapNext f o = .next t) :
    ∃ u, o = .next u ∧ t = f u := by
  cases o <;> simp_all [mapNext]

/-- A state that is neither terminal nor IDLE is one of states 1 to 4 (R22). -/
theorem active_of (s : State) (h1 : s.st.terminal = false) (h2 : s.st ≠ .idle) : s.st.active = true := by
  cases hs : s.st <;> simp_all [SessionState.terminal, SessionState.active]

/-- SAY ONCE WHAT A STEP CAN DO: a next state is one of the cases of `StepCase`, with the environment's next
port levels applied. -/
theorem step_cases {s t : State} (h : step s = .next t) :
    s.params.legal = true ∧ ∃ u, t = loadInputs u ∧ StepCase s u := by
  unfold step withLegalParams at h
  split at h
  swap
  · cases h
  rename_i hl
  refine ⟨hl, ?_⟩
  obtain ⟨u, hu, rfl⟩ := mapNext_next h
  refine ⟨u, rfl, ?_⟩
  by_cases hr : s.inp.reset = true
  · have hsel : selectStep s = .reset := by simp [selectStep, hr]
    simp only [stepSelected, hsel] at hu
    cases hu; exact .reset hr
  have hr : s.inp.reset = false := by simpa using hr
  by_cases hterm : s.st.terminal = true
  · have hsel : selectStep s = .noStep := by simp [selectStep, hr, hterm]
    simp only [stepSelected, hsel] at hu
    cases hu
    exact .noStep hr (by cases hs : s.st <;> simp_all [SessionState.terminal, SessionState.active]) (.inl hterm)
  have hterm : s.st.terminal = false := by simpa using hterm
  by_cases hc : s.inp.cancel = true
  · have hsel : selectStep s = .cancel := by simp [selectStep, hr, hterm, hc]
    simp only [stepSelected, hsel, exec, execCmdCancel, withLegalParams, hl, hc, hterm] at hu
    simp only [Bool.not_false, Bool.and_self, if_true] at hu
    unfold cancelSession at hu
    split at hu
    · rename_i hs; cases hu; exact .cancelIdle hr hc hs
    · rename_i hs
      have ha := active_of s hterm hs
      simp only at hu
      split at hu
      · rename_i hx
        unfold encodeInto at hu
        rw [encode_eq_of_wf rfl] at hu
        cases hu
        exact .cancelSent hr hc ha hx _ rfl
      · rename_i hx
        cases hu
        exact .cancelSilent hr hc ha (by simpa using hx)
  have hc : s.inp.cancel = false := by simpa using hc
  by_cases hs : s.st = .idle
  · cases hb : s.inp.beginReq with
    | none =>
      have hsel : selectStep s = .noStep := by simp [selectStep, hr, hc, hs, hb, SessionState.terminal]
      simp only [stepSelected, hsel] at hu
      cases hu; exact .noStep hr (by simp [hs, SessionState.active]) (.inr ⟨hc, hb⟩)
    | some src =>
      have hsel : selectStep s = .begin src := by simp [selectStep, hr, hc, hs, hb, SessionState.terminal]
      simp only [stepSelected, hsel] at hu
      cases src with
      | unreadable => cases hu; exact .beginFail hr hc hs _ hb (.inl rfl)
      | image bytes =>
        by_cases hlen : bytes.length ≤ 4294967295
        · rw [begin_ok _ _ hlen] at hu
          cases hu
          exact .beginOk hr hc hs bytes hb hlen
        · unfold beginSession at hu
          simp only at hu
          rw [if_pos (by unfold Config.maxImage; omega)] at hu
          cases hu; exact .beginFail hr hc hs _ hb (.inr ⟨_, rfl, by omega⟩)
  have ha := active_of s hterm hs
  rw [stepSelected_exchange s hl ha hr hc] at hu
  unfold exchangeRaw at hu
  split at hu
  · rename_i hp
    cases hu
    cases ht : s.inp.txStatus with
    | ok => rw [sendFrame_ok _ _ ht]; exact .sent hr hc ha hp ht
    | error n => rw [sendFrame_error _ _ n ht]; exact .sendFailed hr hc ha hp n ht
  · rename_i hp
    unfold receiveStep at hu
    split at hu
    · rename_i hx; cases hu; exact .waits hr hc ha hp hx
    · rename_i rest hx; cases hu; exact .readFailed hr hc ha hp rest hx
    · rename_i rest hx
      cases hu
      by_cases hat : s.attempt.toNat < s.params.maxAttempts
      · rw [retryOrFail_lt _ _ _ (by exact hat)]
        exact .retry hr hc ha hp _ rest _ (.timeout rest hx) hat
      · rw [retryOrFail_ge _ _ _ (by simpa using hat)]
        exact .exhausted hr hc ha hp _ rest _ (.timeout rest hx) (by omega)
    · rename_i b rest hx
      by_cases hcl : classify s.params.crc b = .ack
      · have hb := classify_ack hcl
        have hs' := readFrom_spec Config.rspFrameLen [] s.rx
        rw [show readFrom Config.rspFrameLen [] s.rx = _ from hx] at hs'
        obtain ⟨m, h1, h2, h3⟩ := hs'
        simp only [List.nil_append] at h2
        subst h2
        rw [hb] at hu h3
        have := receive_ack { s with rx := rest }
        rw [show receive (ackFrame s.params) { s with rx := rest } = _ from this] at hu
        exact .acked hr hc ha hp rest h3 u (ack_cases ha hu)
      · rw [receive_not_ack _ _ (by exact hcl)] at hu
        cases hu
        by_cases hat : s.attempt.toNat < s.params.maxAttempts
        · rw [retryOrFail_lt _ _ _ (by exact hat)]
          exact .retry hr hc ha hp _ rest _ (.bytes b rest hx hcl) hat
        · rw [retryOrFail_ge _ _ _ (by simpa using hat)]
          exact .exhausted hr hc ha hp _ rest _ (.bytes b rest hx hcl) (by omega)

/-- An unanswered or refused attempt has a cause. -/
theorem NotAcked.cause {s : State} {o : AttemptOutcome} {rest : List RxEvent} {reg : U32}
    (h : NotAcked s o rest reg) : causeOf o ≠ .none := by
  cases h with
  | timeout => simp [causeOf]
  | bytes b _ _ hc => exact causeOf_ne_none hc

/-- A run whose first step is known. -/
theorem run_next {M : Host.Core} (k : Nat) {s t : M.State} (h : M.step s = .next t) :
    M.run (k + 1) s = M.run k t := by
  simp only [Host.Core.run, h]

end Sys2Proof.Machine
end

