-- ==== Sys2Proof/Tests/Slice0.lean ====
section
/-! SUPPORT. The model's own tests, each on one step or one operation, with expected values written out from
95_test_vectors.md; and for every obligation with hypotheses a concrete case that meets them together. -/

namespace Sys2Proof.Tests

-- One kernel evaluation at a time: each would take a thread with a stack of its own.
set_option Elab.async false

open Sys2Proof Sys2Proof.Machine

/-! ### Well-formedness -/

theorem test_wf_data_over_max_chunk_refused :
    (Instr.data (List.replicate 513 0)).wf Params.default = false := by decide +kernel
theorem test_wf_data_at_max_chunk_accepted :
    (Instr.data (List.replicate 512 0)).wf Params.default = true := by decide +kernel

/-- 95_test_vectors.md section 3.2. -/
theorem test_encode_refusals :
    encodePacket Params.default 0x00 [0x03] = none ∧ encodePacket Params.default 0x00 [0x00, 0x00] = none ∧
    encodePacket Params.default 0x02 (zeros 15) = none ∧
    encodePacket Params.default 0x01 (zeros 513) = none ∧
    encodePacket Params.default 0x03 [0x02] = none ∧ encodePacket Params.default 0x04 [0x00] = none := by
  decide +kernel

/-! ### Decoding: the frames of 95_test_vectors.md section 3.1, written out byte by byte -/

theorem test_decode_cmdStart :
    decode Params.default [0xAA, 0x00, 0x01, 0x00, 0x00, 0x2B, 0xB5, 0x86, 0x20, 0xBB] = .ok .cmdStart := by
  decide +kernel
theorem test_decode_cmdEnd :
    decode Params.default [0xAA, 0x00, 0x01, 0x00, 0x01, 0xBD, 0x85, 0x81, 0x57, 0xBB] = .ok .cmdEnd := by
  decide +kernel
theorem test_decode_cmdCancel :
    decode Params.default [0xAA, 0x00, 0x01, 0x00, 0x02, 0x07, 0xD4, 0x88, 0xCE, 0xBB] = .ok .cmdCancel := by
  decide +kernel
theorem test_decode_header :
    decode Params.default
      [0xAA, 0x02, 0x10, 0x00, 0x05, 0x00, 0x00, 0x00, 0x36, 0x64, 0x44, 0xC1, 0x00, 0x00, 0x00, 0x00,
       0x00, 0x00, 0x00, 0x00, 0x1F, 0x88, 0xB2, 0xD9, 0xBB] = .ok (.header 5 0xC1446436 0 0) := by
  decide +kernel
theorem test_decode_data :
    decode Params.default [0xAA, 0x01, 0x01, 0x00, 0x5A, 0xA4, 0x6A, 0x84, 0x13, 0xBB] =
      .ok (.data [0x5A]) := by decide +kernel
theorem test_decode_data_empty :
    decode Params.default [0xAA, 0x01, 0x00, 0x00, 0x25, 0xB3, 0x83, 0xFE, 0xBB] = .ok (.data []) := by
  decide +kernel
theorem test_decode_rspAck :
    decode Params.default [0xAA, 0x03, 0x01, 0x00, 0x00, 0xC5, 0x1A, 0x33, 0x32, 0xBB] = .ok .rspAck := by
  decide +kernel
theorem test_decode_rspNack :
    decode Params.default [0xAA, 0x03, 0x01, 0x00, 0x01, 0x53, 0x2A, 0x34, 0x45, 0xBB] = .ok .rspNack := by
  decide +kernel

/-- V-DEC-3 to V-DEC-5, V-DEC-11, V-DEC-12: the four framing checks. -/
theorem test_decode_framing :
    decodeFrame CrcParams.isoHdlc [] = .error .framing ∧
    decodeFrame CrcParams.isoHdlc [0xAB, 0x03, 0x01, 0x00, 0x00, 0xC5, 0x1A, 0x33, 0x32, 0xBB] =
      .error .framing ∧
    decodeFrame CrcParams.isoHdlc [0xAA, 0x03, 0x01, 0x00, 0x00, 0xC5, 0x1A, 0x33] = .error .framing ∧
    decodeFrame CrcParams.isoHdlc [0xAA, 0x03, 0x01, 0x00, 0x00, 0xC5, 0x1A, 0x33, 0x32, 0xBC] =
      .error .framing ∧
    decodeFrame CrcParams.isoHdlc [0xAA, 0x04, 0x01, 0x00, 0x00, 0x7C, 0x22, 0xE4, 0xAF, 0xBB] =
      .error .framing := by decide +kernel

/-- V-DEC-6 to V-DEC-10: integrity and length. -/
theorem test_decode_integrity_and_length :
    decodeFrame CrcParams.isoHdlc [0xAA, 0x03, 0x01, 0x00, 0x00, 0xC4, 0x1A, 0x33, 0x32, 0xBB] =
      .error .integrity ∧
    decodeFrame CrcParams.isoHdlc [0xAA, 0x03, 0x01, 0x00, 0x01, 0xC5, 0x1A, 0x33, 0x32, 0xBB] =
      .error .integrity ∧
    decodeFrame CrcParams.isoHdlc [0xAA, 0x02, 0x01, 0x00, 0x00, 0xC5, 0x1A, 0x33, 0x32, 0xBB] =
      .error .integrity ∧
    decodeFrame CrcParams.isoHdlc [0xAA, 0x03, 0x02, 0x00, 0x00, 0xC5, 0x1A, 0x33, 0x32, 0xBB] =
      .error .lengthMismatch ∧
    decodeFrame CrcParams.isoHdlc [0xAA, 0x03, 0x01, 0x00, 0x00, 0xC5, 0x1A, 0x33, 0x32, 0xBB, 0x00] =
      .error .lengthMismatch := by decide +kernel

/-- V-DEC-13 to V-DEC-15: accepted packets that are no ACK and no NACK. -/
theorem test_classify :
    classify CrcParams.isoHdlc [0xAA, 0x03, 0x01, 0x00, 0x02, 0xE9, 0x7B, 0x3D, 0xDC, 0xBB] =
      .malformed .badCode ∧
    classify CrcParams.isoHdlc [0xAA, 0x01, 0x01, 0x00, 0x5A, 0xA4, 0x6A, 0x84, 0x13, 0xBB] =
      .malformed .wrongType ∧
    classify CrcParams.isoHdlc [0xAA, 0x00, 0x01, 0x00, 0x00, 0x2B, 0xB5, 0x86, 0x20, 0xBB] =
      .malformed .wrongType := by decide +kernel

/-- A Response with the reserved code 02 is accepted by DECODE and is of no kind (30_encoding.md R84). -/
theorem test_decode_no_kind :
    decode Params.default [0xAA, 0x03, 0x01, 0x00, 0x02, 0xE9, 0x7B, 0x3D, 0xDC, 0xBB] = .error .noKind := by
  decide +kernel

/-! ### The CRC engine: 95_test_vectors.md section 2 -/

/-- "123456789". -/
def digits : List Byte := [0x31, 0x32, 0x33, 0x34, 0x35, 0x36, 0x37, 0x38, 0x39]

theorem test_crc_run_digits : crcRun CrcParams.isoHdlc digits = 0x9B63D02C := by decide +kernel
theorem test_crc_digits : crcCompute CrcParams.isoHdlc digits = 0xCBF43926 := by decide +kernel
theorem test_crc_empty : crcCompute CrcParams.isoHdlc [] = 0x00000000 := by decide +kernel
theorem test_crc_unreflected :
    crcCompute { CrcParams.isoHdlc with refin := false, refout := false } digits = 0xFC891918 := by
  decide +kernel
theorem test_crc_unreflected_no_xor :
    crcCompute { CrcParams.isoHdlc with refin := false, refout := false, xorout := 0 } digits =
      0x0376E6E7 := by decide +kernel
theorem test_crc_no_xor :
    crcCompute { CrcParams.isoHdlc with xorout := 0 } digits = 0x340BC6D9 := by decide +kernel

/-! ### Small states -/

/-- "HELLO", the image of program P2. -/
def hello : List Byte := [0x48, 0x45, 0x4C, 0x4C, 0x4F]

/-- A running session over "HELLO". -/
def running (st : SessionState) (ph : Phase) (attempt : Byte) : State :=
  { State.reset with st := st, ph := ph, attempt := attempt, txAny := true, own := true, img := hello,
                     imgSize := 5, imgCrc := 0xC1446436 }

/-- Whether an outcome is a next state with a property. -/
def nextIs (o : StepOutcome) (f : State → Bool) : Bool :=
  match o with
  | .next t => f t
  | .fault _ => false
  | .refused _ => false

theorem exists_of_nextIs {o : StepOutcome} {f : State → Bool} (h : nextIs o f = true) :
    ∃ t, o = .next t ∧ f t = true := by
  cases o with
  | next t => exact ⟨t, rfl, h⟩
  | fault r => cases h
  | refused r => cases h

/-- The frames V-COD-1, V-COD-6 and V-COD-7. -/
def startFrame : List Byte := [0xAA, 0x00, 0x01, 0x00, 0x00, 0x2B, 0xB5, 0x86, 0x20, 0xBB]
def ackBytes : List Byte := [0xAA, 0x03, 0x01, 0x00, 0x00, 0xC5, 0x1A, 0x33, 0x32, 0xBB]
def nackBytes : List Byte := [0xAA, 0x03, 0x01, 0x00, 0x01, 0x53, 0x2A, 0x34, 0x45, 0xBB]

/-! ### One step of each kind: 95_test_vectors.md section 4.1 -/

theorem test_exec_cmdStart_sends :
    nextIs (exec .cmdStart (running .starting .tx 0))
      (fun t => t.ph == .rx && t.attempt == 1 && t.txAny && txStream t == startFrame) = true := by
  decide +kernel
theorem test_exec_cmdStart_as_response_is_wrong_type :
    nextIs (exec .cmdStart (running .starting .rx 3))
      (fun t => t.st == .failed && t.cause == .malformedResponse && t.attempt == 3) = true := by
  decide +kernel
theorem test_exec_cmdEnd_sends :
    nextIs (exec .cmdEnd (running .awaitEndAck .tx 0))
      (fun t => t.ph == .rx && txStream t ==
        [0xAA, 0x00, 0x01, 0x00, 0x01, 0xBD, 0x85, 0x81, 0x57, 0xBB]) = true := by decide +kernel
theorem test_exec_cmdCancel_after_traffic :
    nextIs (exec .cmdCancel
        { running .sendingData .rx 1 with inp := { Inputs.quiet with cancel := true } })
      (fun t => t.st == .failed && t.cause == .cancelled && !t.own &&
        t.outs == [.tx [0xAA, 0x00, 0x01, 0x00, 0x02, 0x07, 0xD4, 0x88, 0xCE, 0xBB], .close,
          .result (.failed .cancelled)]) = true := by decide +kernel
theorem test_exec_cmdCancel_before_traffic :
    nextIs (exec .cmdCancel
        { running .starting .tx 0 with txAny := false, inp := { Inputs.quiet with cancel := true } })
      (fun t => t.cause == .cancelled && t.outs == [.close, .result (.failed .cancelled)]) = true := by
  decide +kernel
theorem test_exec_header_sends :
    nextIs (exec (.header 0 0 0 0) (running .awaitHeaderAck .tx 0))
      (fun t => t.ph == .rx && txStream t ==
        [0xAA, 0x02, 0x10, 0x00, 0x00, 0x00, 0x00, 0x00, 0x00, 0x00, 0x00, 0x00, 0x00, 0x00, 0x00, 0x00,
         0x00, 0x00, 0x00, 0x00, 0x86, 0x93, 0x1F, 0x80, 0xBB]) = true := by decide +kernel
theorem test_exec_data_sends :
    nextIs (exec (.data hello) (running .sendingData .tx 1))
      (fun t => t.ph == .rx && t.attempt == 2 && txStream t ==
        [0xAA, 0x01, 0x05, 0x00, 0x48, 0x45, 0x4C, 0x4C, 0x4F, 0x7B, 0x63, 0xD6, 0xFC, 0xBB]) = true := by
  decide +kernel
theorem test_exec_data_failed_write_is_fatal :
    nextIs (exec (.data hello)
        { running .sendingData .tx 1 with inp := { Inputs.quiet with txStatus := .error 3 } })
      (fun t => t.st == .failed && t.cause == .transport && t.attempt == 2 &&
        txStream t == [0xAA, 0x01, 0x05]) = true := by decide +kernel
theorem test_exec_rspAck_loads_header :
    nextIs (exec .rspAck (running .starting .rx 2))
      (fun t => t.st == .awaitHeaderAck && t.ph == .tx && t.attempt == 0 && t.frame ==
        [0xAA, 0x02, 0x10, 0x00, 0x05, 0x00, 0x00, 0x00, 0x36, 0x64, 0x44, 0xC1, 0x00, 0x00, 0x00, 0x00,
         0x00, 0x00, 0x00, 0x00, 0x1F, 0x88, 0xB2, 0xD9, 0xBB]) = true := by decide +kernel
theorem test_exec_rspAck_of_data :
    nextIs (exec .rspAck { running .sendingData .rx 1 with chunkLen := 5 })
      (fun t => t.st == .awaitEndAck && t.bytesSent == 5 && t.outs == [.progress 5]) = true := by
  decide +kernel
theorem test_exec_rspNack_retries :
    nextIs (exec .rspNack (running .starting .rx 1))
      (fun t => t.st == .starting && t.ph == .tx && t.attempt == 1) = true := by decide +kernel
theorem test_exec_rspNack_exhausts :
    nextIs (exec .rspNack (running .starting .rx 3))
      (fun t => t.st == .failed && t.ph == .rx && t.cause == .deviceRejected && t.attempt == 3 &&
        t.crcReg == 0xFFFFFFFF) = true := by
  decide +kernel

/-! ### The rows of opcode_table.json, in the table's numbering and low byte first (log 16, log 17) -/

theorem test_rows_decode :
    decodeTableWord 40 0xAA00010000 = some .cmdStart ∧ decodeTableWord 40 0xAA00010001 = some .cmdEnd ∧
    decodeTableWord 40 0xAA00010002 = some .cmdCancel ∧
    decodeTableWord 32 0xAA021000 = some (.header 0 0 0 0) ∧
    decodeTableWord 16 0xAA01 = some (.data []) ∧
    decodeTableWord 40 0xAA03010000 = some .rspAck ∧ decodeTableWord 40 0xAA03010001 = some .rspNack := by
  decide +kernel
theorem test_rows_decode_low_byte_first :
    decodeTableWord 40 0x00000100AA = some .cmdStart ∧ decodeTableWord 40 0x01000100AA = some .cmdEnd ∧
    decodeTableWord 32 0x001002AA = some (.header 0 0 0 0) ∧
    decodeTableWord 16 0x01AA = some (.data []) ∧
    decodeTableWord 40 0x01000103AA = some .rspNack := by decide +kernel
theorem test_fetched_row_cmdStart_runs :
    nextIs (step (State.reset.withFetchWord 40 0xAA00010000))
      (fun t => t.ph == .rx && t.attempt == 1 && txStream t == startFrame) = true := by decide +kernel
theorem test_fetched_row_cmdCancel_runs :
    nextIs (step (State.reset.withFetchWord 40 0xAA00010002))
      (fun t => t.cause == .cancelled && t.outs.length == 3) = true := by decide +kernel
theorem test_fetched_row_header_runs :
    nextIs (step (State.reset.withFetchWord 32 0xAA021000))
      (fun t => t.st == .awaitHeaderAck && t.ph == .rx && (txStream t).length == 25) = true := by
  decide +kernel
theorem test_fetched_row_data_runs :
    nextIs (step (State.reset.withFetchWord 16 0xAA01))
      (fun t => t.st == .sendingData && t.ph == .rx && (txStream t).length == 9) = true := by decide +kernel
theorem test_fetched_row_rspAck_runs :
    nextIs (step (State.reset.withFetchWord 40 0xAA03010000))
      (fun t => t.st == .awaitHeaderAck && t.ph == .tx && t.attempt == 0 && t.rx == []) = true := by
  decide +kernel
theorem test_fetched_row_rspNack_runs :
    nextIs (step (State.reset.withFetchWord 40 0xAA03010001))
      (fun t => t.st == .starting && t.ph == .tx && t.rx == []) = true := by decide +kernel

/-! ### Witnesses: a concrete case that meets all hypotheses of each obligation -/

theorem witness_ReflectionReversesBits : (7 : Nat) < 8 ∧ (0 : Nat) < 8 ∧ (31 : Nat) < 32 := by decide

theorem witness_CrcDetectsSingleByteChange :
    CrcParams.isoHdlc.poly.getLsbD 0 = true ∧ ([1, 2] : List Byte).length = ([1, 3] : List Byte).length ∧
    ([1, 2] : List Byte)[1]? ≠ ([1, 3] : List Byte)[1]? ∧
    ∀ j, j ≠ 1 → ([1, 2] : List Byte)[j]? = ([1, 3] : List Byte)[j]? := by
  refine ⟨by decide, rfl, by decide, fun j hj => ?_⟩
  match j, hj with
  | 0, _ => rfl
  | 1, h => exact absurd rfl h
  | _ + 2, _ => rfl

theorem witness_BuiltFrameLayout :
    (List.replicate 65535 (0 : Byte)).length < 65536 ∧ ([] : List Byte).length < 65536 :=
  ⟨Nat.lt_of_le_of_lt (Nat.le_of_eq List.length_replicate) (by decide), by decide⟩

theorem witness_DecodeOfEncodedPacket :
    Params.default.legal = true ∧ encodeAccepts Params.default 0x00 [0x02] = true ∧
    encodeAccepts Params.default 0x01 (zeros 512) = true ∧
    encodeAccepts Params.default 0x02 (zeros 16) = true ∧
    encodeAccepts Params.default 0x03 [0x01] = true := by decide +kernel

theorem witness_DecodeOfEncodedKind :
    Params.default.legal = true ∧ (Instr.data hello).wf Params.default = true ∧
    (Instr.header 5 0xC1446436 0 0).wf Params.default = true ∧ Instr.rspAck.wf Params.default = true := by
  decide +kernel

theorem witness_EncodeOfDecodedKind :
    decode Params.default startFrame = .ok .cmdStart ∧ Instr.cmdStart.wf Params.default = true := by
  decide +kernel

/-- The first payload byte, the last checksum byte. -/
theorem witness_PayloadOrChecksumChangeIsIntegrityError :
    Params.default.legal = true ∧ encodePacket Params.default 0x00 [0x00] = some startFrame ∧
    4 ≤ 7 + ([0x00] : List Byte).length ∧ startFrame[4]? ≠ some 0x01 ∧ startFrame[8]? ≠ some 0x21 := by
  decide +kernel

theorem witness_OtherSingleByteChanges :
    Params.default.legal = true ∧ encodePacket Params.default 0x00 [0x00] = some startFrame ∧
    (0xAB : Byte) ≠ 0xAA ∧ (0x02 : Byte) ≠ 0x00 ∧ startFrame[2]? ≠ some 0x02 ∧
    startFrame[3]? ≠ some 0x01 ∧ (0xBC : Byte) ≠ 0xBB := by decide +kernel

theorem witness_EncodeRefusesExactlyIllFormed :
    encodePacket Params.default 0x00 [0x00] = some startFrame := by decide +kernel

/-- An image read to the last byte, and one byte beyond it. -/
theorem witness_ImageReadStaysInside :
    2 + 3 ≤ (running .sendingData .tx 0).img.length ∧ (running .sendingData .tx 0).img.length < 2 + 4 := by
  decide

theorem witness_SendingKindsTransmit :
    let s := running .starting .tx 0
    s.params.legal = true ∧ s.st.active = true ∧ s.ph = .tx ∧ s.inp.txStatus = .ok ∧
      (zeros 512).length ≤ s.params.maxChunk ∧ s.params.maxChunk < (zeros 513).length := by decide +kernel

theorem witness_AckOfStartLoadsHeader :
    let s := running .starting .rx 1
    s.params.legal = true ∧ s.st = .starting ∧ s.ph = .rx := by decide

/-- The empty image, an image of one chunk, and an image shorter than its announced size. -/
theorem witness_AckOfHeaderLoadsFirstChunk :
    let s := running .awaitHeaderAck .rx 1
    s.params.legal = true ∧ s.st = .awaitHeaderAck ∧ s.ph = .rx ∧
      ({ s with imgSize := 0 } : State).imgSize = 0 ∧ s.imgSize ≠ 0 ∧
      min s.params.maxChunk s.imgSize.toNat ≤ s.img.length ∧
      ({ s with img := [] } : State).img.length < min s.params.maxChunk s.imgSize.toNat := by decide

/-- The last chunk, a chunk with one byte after it, and an image shorter than its announced size. -/
theorem witness_AckOfDataReportsProgress :
    let s : State := { running .sendingData .rx 1 with chunkLen := 4 }
    let sent : U32 := s.bytesSent + s.chunkLen.zeroExtend 32
    let n := min s.params.maxChunk (s.imgSize - sent).toNat
    s.params.legal = true ∧ s.st = .sendingData ∧ s.ph = .rx ∧
      (0 + (5 : U16).zeroExtend 32 : U32) = s.imgSize ∧ sent ≠ s.imgSize ∧ sent.toNat + n ≤ s.img.length ∧
      ({ s with img := [] } : State).img.length < sent.toNat + n := by decide

theorem witness_AckOfEndCompletes :
    let s := running .awaitEndAck .rx 1
    s.params.legal = true ∧ s.st = .awaitEndAck ∧ s.ph = .rx := by decide

/-- Attempts 2 and 3 of 3. -/
theorem witness_NackRetriesThenRejects :
    let s := running .sendingData .rx 2
    let t := running .sendingData .rx 3
    s.params.legal = true ∧ s.st.active = true ∧ s.ph = .rx ∧ s.attempt.toNat < s.params.maxAttempts ∧
      t.params.legal = true ∧ t.st.active = true ∧ t.ph = .rx ∧ t.params.maxAttempts ≤ t.attempt.toNat := by
  decide

theorem witness_WrongTypeIsRetriedThenFatal :
    let s := running .starting .rx 2
    let t := running .starting .rx 3
    s.params.legal = true ∧ s.st.active = true ∧ s.ph = .rx ∧ s.inp.cancel = false ∧
      (∃ b, Instr.data [0x5A] = .data [b]) ∧ s.attempt.toNat < s.params.maxAttempts ∧
      t.inp.cancel = false ∧ t.params.maxAttempts ≤ t.attempt.toNat :=
  ⟨rfl, rfl, rfl, rfl, ⟨_, rfl⟩, by decide, rfl, by decide⟩

theorem witness_LongFrameLeavesItsSurplus :
    let s := running .starting .rx 2
    s.params.legal = true ∧ s.st.active = true ∧ s.ph = .rx ∧ s.attempt.toNat < s.params.maxAttempts := by
  decide

theorem witness_NoFrameOutsideStatesOneToFour :
    State.reset.params.legal = true ∧ State.reset.st.active = false ∧
      (Instr.cmdCancel = .cmdCancel → State.reset.inp.cancel = false) := by decide

/-- IDLE, a session that has sent nothing, one that has. -/
theorem witness_CancelEndsSession :
    let asserted := { Inputs.quiet with cancel := true }
    let s := { State.reset with inp := asserted }
    let t : State := { running .starting .tx 0 with txAny := false, inp := asserted }
    let u : State := { running .awaitEndAck .rx 3 with inp := asserted }
    s.params.legal = true ∧ s.inp.cancel = true ∧ s.st.terminal = false ∧ s.st = .idle ∧
      t.inp.cancel = true ∧ t.st.terminal = false ∧ t.st ≠ .idle ∧ t.txAny = false ∧
      u.inp.cancel = true ∧ u.st.terminal = false ∧ u.st ≠ .idle ∧ u.txAny = true := by decide

/-- An illegal configuration: an even polynomial; 65536 bytes in a chunk; no attempt. -/
theorem witness_IllegalConfigurationIsRefused :
    ({ CrcParams.isoHdlc with poly := 0x04C11DB6 } : CrcParams).poly.getLsbD 0 ≠ true ∧
      ¬ 65536 ≤ 65535 ∧ ¬ 1 ≤ 0 ∧
      Params.legal { Params.default with maxChunk := 65535, maxAttempts := 255 } = true := by decide

theorem witness_StepRunsDecodedPacket :
    let s : State := { running .starting .tx 0 with frame := startFrame }
    let t : State := { running .starting .rx 1 with rx := nackBytes.map .byte ++ [.timeout 0] }
    let u : State := { running .starting .rx 1 with inp := { Inputs.quiet with cancel := true } }
    s.params.legal = true ∧ s.inp.reset = false ∧ s.inp.cancel = false ∧ s.st.active = true ∧ s.ph = .tx ∧
      decode s.params s.frame = .ok .cmdStart ∧ Instr.cmdStart.wf s.params = true ∧
      t.inp.cancel = false ∧ t.st.active = true ∧ t.ph = .rx ∧
      t.rx = nackBytes.map RxEvent.byte ++ [.timeout 0] ∧ nackBytes.length = 10 ∧
      decode t.params nackBytes = .ok .rspNack ∧ u.inp.cancel = true ∧ u.st.terminal = false := by
  decide +kernel

theorem witness_TxStepWritesFrameRegister :
    let s : State := { running .starting .tx 0 with frame := startFrame }
    let t := { s with inp := { Inputs.quiet with txStatus := .error 0 } }
    s.params.legal = true ∧ Undisturbed s ∧ s.st.active = true ∧ s.ph = .tx ∧ s.inp.txStatus = .ok ∧
      Undisturbed t ∧ t.inp.txStatus = .error 0 :=
  ⟨rfl, ⟨rfl, rfl⟩, rfl, rfl, rfl, ⟨rfl, rfl⟩, rfl⟩

theorem witness_TransportErrorsAreFatal :
    let s : State := { running .awaitEndAck .tx 0 with inp := { Inputs.quiet with txStatus := .error 10 } }
    let t : State := { running .starting .rx 2 with rx := [.byte 0xAA, .error 1, .byte 0xBB] }
    s.params.legal = true ∧ Undisturbed s ∧ s.st.active = true ∧ s.ph = .tx ∧ s.inp.txStatus = .error 10 ∧
      Undisturbed t ∧ t.st.active = true ∧ t.ph = .rx ∧ rxReadExact 10 t.rx = .error [.byte 0xBB] :=
  ⟨rfl, ⟨rfl, rfl⟩, rfl, rfl, rfl, ⟨rfl, rfl⟩, rfl, rfl, rfl⟩

theorem witness_FailedResponseRetriesThenFails :
    let s : State := { running .starting .rx 2 with rx := nackBytes.map .byte ++ [.timeout 0] }
    let t : State := { running .starting .rx 3 with rx := nackBytes.map .byte ++ [] }
    s.params.legal = true ∧ Undisturbed s ∧ s.st.active = true ∧ s.ph = .rx ∧
      s.rx = nackBytes.map RxEvent.byte ++ [.timeout 0] ∧ nackBytes.length = 10 ∧
      classify s.params.crc nackBytes ≠ .ack ∧ s.attempt.toNat < s.params.maxAttempts ∧
      t.rx = nackBytes.map RxEvent.byte ++ [] ∧ t.params.maxAttempts ≤ t.attempt.toNat :=
  ⟨rfl, ⟨rfl, rfl⟩, rfl, rfl, rfl, rfl, by decide +kernel, by decide, rfl, by decide⟩

/-- A timeout with attempts left, one with none left, and an unanswered read of nine bytes. -/
theorem witness_TimeoutRetriesAndSilenceWaits :
    let s : State := { running .starting .rx 2 with rx := [.byte 0xAA, .timeout 0] }
    let t : State := { running .starting .rx 3 with rx := [.timeout 5] }
    let u : State := { running .starting .rx 1 with rx := (nackBytes.take 9).map .byte }
    s.params.legal = true ∧ Undisturbed s ∧ s.st.active = true ∧ s.ph = .rx ∧
      rxReadExact 10 s.rx = .timeout [.byte 0xAA] ∧ s.attempt.toNat < s.params.maxAttempts ∧
      rxReadExact 10 t.rx = .timeout [] ∧ t.params.maxAttempts ≤ t.attempt.toNat ∧
      rxReadExact 10 u.rx = .waiting :=
  ⟨rfl, ⟨rfl, rfl⟩, rfl, rfl, rfl, by decide, rfl, by decide, rfl⟩

/-- A begin request on the reset state. -/
def asked (src : Source) : State := { State.reset with inp := { Inputs.quiet with beginReq := some src } }

theorem witness_BeginStartsSession :
    let s := asked (.image hello)
    s.params.legal = true ∧ Undisturbed s ∧ s.st = .idle ∧ s.inp.beginReq = some (.image hello) ∧
      hello.length ≤ 4294967295 ∧ (List.replicate 4294967295 (0 : Byte)).length ≤ 4294967295 :=
  ⟨rfl, ⟨rfl, rfl⟩, rfl, rfl, by decide, Nat.le_of_eq List.length_replicate⟩

theorem witness_BeginWithoutImageFails :
    let s := asked .unreadable
    s.params.legal = true ∧ Undisturbed s ∧ s.st = .idle ∧ s.inp.beginReq = some .unreadable ∧
      ∃ bytes : List Byte, Source.image bytes = .image bytes ∧ 4294967295 < bytes.length :=
  ⟨rfl, ⟨rfl, rfl⟩, rfl, rfl, List.replicate 4294967296 0, rfl,
    Nat.lt_of_lt_of_eq (by decide : 4294967295 < 4294967296) List.length_replicate.symm⟩

theorem witness_BeginIgnoredOutsideIdle : (running .sendingData .rx 1).st ≠ .idle := by decide

theorem witness_ResetReturnsEveryRegister :
    let s : State := { running .failed .rx 3 with inp := { Inputs.quiet with reset := true } }
    s.params.legal = true ∧ s.inp.reset = true := by decide

theorem witness_TerminalStatesAbsorb :
    (running .complete .tx 0).params.legal = true ∧ (running .complete .tx 0).inp.reset = false ∧
      (running .complete .tx 0).st = .complete ∧ (running .failed .rx 3).st = .failed ∧
      State.reset.st = .idle ∧ State.reset.inp.cancel = false ∧ State.reset.inp.beginReq = none := by decide

theorem witness_StatusPortCodes :
    State.reset.st = .idle ∧ (running .failed .rx 3).st = .failed ∧
      ({ running .failed .rx 3 with cause := .cancelled } : State).cause = .cancelled := by decide

/-! Sound sessions: the reset state with a begin request, and the session that BEGIN starts from it. -/

theorem asked_sound (src : Source) : SessionInv (asked src) where
  legal := (by decide : Params.default.legal = true)
  attempt_le := Nat.zero_le _
  attempt_lt := fun h => by cases h
  written := fun h => by cases h
  own_active := rfl
  cause_failed := ⟨fun _ h => (nomatch (h : SessionState.idle = .failed)), fun _ => rfl⟩
  sent_le := Nat.le_refl _
  image := fun h => by cases h
  idle_reset := fun _ => rfl
  frame_current := fun h => by cases h
  before_data := fun _ => ⟨rfl, rfl⟩
  chunk := fun h => by cases h
  after_data := fun _ => rfl

/-- The session over "HELLO" in STARTING, its Start frame not yet written. -/
def started : State := { running .starting .tx 0 with txAny := false, frame := startFrame }

theorem started_sound : SessionInv started where
  legal := rfl
  attempt_le := by decide
  attempt_lt := fun _ _ => by decide
  written := fun _ h => by cases h
  own_active := rfl
  cause_failed := ⟨fun _ h => (nomatch (h : SessionState.starting = .failed)), fun _ => rfl⟩
  sent_le := by decide
  image := fun _ => ⟨rfl, by decide +kernel⟩
  idle_reset := fun h => by cases h
  frame_current := fun _ => ⟨.cmdStart, rfl, by decide +kernel⟩
  before_data := fun _ => ⟨rfl, rfl⟩
  chunk := fun h => by cases h
  after_data := fun h => by rcases h with h | h <;> cases h

/-- The same session with other bytes in the receive stream. -/
def startedWith (rx : List RxEvent) : State := { started with rx := rx }

theorem startedWith_sound (rx : List RxEvent) : SessionInv (startedWith rx) :=
  { started_sound with
    idle_reset := fun h => by cases h
    frame_current := started_sound.frame_current }

theorem witness_ResetHasSessionInvariant : Params.default.legal = true := by decide

theorem witness_StepKeepsSessionInvariant :
    SessionInv started ∧ ∃ t, step started = .next t ∧ (t.ph == .rx) = true :=
  ⟨started_sound, exists_of_nextIs (by decide +kernel)⟩

theorem witness_SoundSessionNeverStops : SessionInv started := started_sound

theorem witness_StepsLeftDecrease :
    SessionInv started ∧ Undisturbed started ∧ started.st.active = true ∧ Answered started :=
  ⟨started_sound, ⟨rfl, rfl⟩, rfl, fun h => by cases h⟩

theorem witness_BeginSetsTheBound :
    let s := asked (.image hello)
    SessionInv s ∧ Undisturbed s ∧ s.st = .idle ∧ s.inp.beginReq = some (.image hello) ∧
      hello.length ≤ 4294967295 := ⟨asked_sound _, ⟨rfl, rfl⟩, rfl, rfl, by decide⟩

theorem witness_SessionEndsWithinTheBound :
    let s := startedWith ((zeros 240).map .byte)
    SessionInv s ∧ Undisturbed s ∧ s.later = [] ∧ s.st.active = true ∧
      s.rx = (zeros 240).map RxEvent.byte ∧ 10 * stepsLeft s ≤ (zeros 240).length :=
  ⟨startedWith_sound _, ⟨rfl, rfl⟩, rfl, rfl, rfl, by decide +kernel⟩

theorem witness_OnlyAckMovesTheSession :
    let s : State := { running .starting .rx 1 with rx := ackBytes.map .byte }
    Undisturbed s ∧ s.st.active = true ∧
      ∃ t, step s = .next t ∧ (t.st != .failed && t.st != s.st && t.frame != s.frame) = true :=
  ⟨⟨rfl, rfl⟩, rfl, exists_of_nextIs (by decide +kernel)⟩

theorem witness_OneFrameAndOneResult :
    ∃ t, step started = .next t ∧ (t.outs == [.tx startFrame]) = true :=
  exists_of_nextIs (by decide +kernel)

/-- At BEGIN, and at the advance of an answered packet. -/
theorem witness_FrameBufferIsCoherent :
    (asked (.image hello)).inp.reset = false ∧
      (∃ t, step (asked (.image hello)) = .next t ∧ (t.frame != (asked (.image hello)).frame) = true) ∧
      (∃ t, step { running .starting .rx 1 with rx := ackBytes.map .byte } = .next t ∧
        (t.frame != (running .starting .rx 1).frame) = true) :=
  ⟨rfl, exists_of_nextIs (by decide +kernel), exists_of_nextIs (by decide +kernel)⟩

theorem witness_ParametersAndImageAreStable :
    started.st ≠ .idle ∧ ∃ t, step started = .next t ∧ (t.img == hello) = true :=
  ⟨by decide, exists_of_nextIs (by decide +kernel)⟩

/-- A failed write, and a failure of another step. -/
theorem witness_FailureIsPrecise :
    let s := { started with inp := { Inputs.quiet with txStatus := .error 4 } }
    let u : State := { running .starting .rx 3 with rx := nackBytes.map .byte }
    s.st ≠ .failed ∧ (∃ t, step s = .next t ∧ (t.st == .failed && t.attempt == 1) = true) ∧
      u.st ≠ .failed ∧ ∃ t, step u = .next t ∧ (t.st == .failed && t.attempt == 3) = true :=
  ⟨by decide, exists_of_nextIs (by decide +kernel), by decide, exists_of_nextIs (by decide +kernel)⟩

/-- As many NACKs as leave one attempt. -/
theorem witness_NacksThenAckAdvance :
    let s := startedWith (rxFrames 2 (nackFrame Params.default) ++
      (ackFrame Params.default).map .byte ++ [])
    SessionInv s ∧ Undisturbed s ∧ s.later = [] ∧ s.inp.txStatus = .ok ∧ s.st.active = true ∧ s.ph = .tx ∧
      s.attempt = 0 ∧ 2 < s.params.maxAttempts ∧
      s.rx = rxFrames 2 (nackFrame s.params) ++ (ackFrame s.params).map RxEvent.byte ++ [] :=
  ⟨startedWith_sound _, ⟨rfl, rfl⟩, rfl, rfl, rfl, rfl, rfl, by decide, rfl⟩

/-- A begin request with the receive stream of a run. -/
def askedWith (bytes : List Byte) (rx : List RxEvent) : State := { asked (.image bytes) with rx := rx }

theorem askedWith_sound (bytes : List Byte) (rx : List RxEvent) : SessionInv (askedWith bytes rx) :=
  { asked_sound (.image bytes) with
    idle_reset := fun _ => rfl
    frame_current := fun h => by cases h }

theorem witness_AlwaysNackFails :
    let s := askedWith hello (rxFrames 3 (nackFrame Params.default) ++ [])
    SessionInv s ∧ Undisturbed s ∧ s.later = [] ∧ s.inp.txStatus = .ok ∧ s.st = .idle ∧
      s.inp.beginReq = some (.image hello) ∧ hello.length ≤ 4294967295 ∧
      s.rx = rxFrames s.params.maxAttempts (nackFrame s.params) ++ [] :=
  ⟨askedWith_sound _ _, ⟨rfl, rfl⟩, rfl, rfl, rfl, rfl, by decide, rfl⟩

theorem witness_AcknowledgedSessionDeliversImage :
    let s := askedWith hello
      (rxFrames (3 + ceilDiv hello.length Params.default.maxChunk) (ackFrame Params.default) ++ [])
    SessionInv s ∧ Undisturbed s ∧ s.later = [] ∧ s.inp.txStatus = .ok ∧ s.st = .idle ∧
      s.inp.beginReq = some (.image hello) ∧ hello.length ≤ 4294967295 ∧
      s.rx = rxFrames (3 + ceilDiv hello.length s.params.maxChunk) (ackFrame s.params) ++ [] :=
  ⟨askedWith_sound _ _, ⟨rfl, rfl⟩, rfl, rfl, rfl, rfl, by decide, rfl⟩

/-- 95_test_vectors.md section 4.3: 5 bytes in chunks of 2 (a short last chunk) and of 1. -/
theorem witness_ChunksCoverTheImage :
    1 ≤ 2 ∧ 1 + 1 < ceilDiv hello.length 2 ∧ 2 + 1 = ceilDiv hello.length 2 ∧
      4 + 1 = ceilDiv hello.length 1 := by decide

end Sys2Proof.Tests
end

section
/-! The layout of a frame (30_encoding.md R70): the markers and the Type byte at their offsets, and the bytes
under the CRC as the slice from the Type byte to the end of the payload. -/

namespace Sys2Proof.Machine

/-- The start-of-frame marker is the first byte (R72). -/
theorem frameWith_sof (type : Byte) (body : List Byte) (v : U32) :
    (frameWith type body v)[0]? = some Config.sof := rfl

/-- The Type code stands behind the start-of-frame marker (R74). -/
theorem frameWith_type (type : Byte) (body : List Byte) (v : U32) :
    (frameWith type body v)[1]? = some type := rfl

/-- The end-of-frame marker is the last byte, behind SOF, the covered bytes and the checksum (R73). -/
theorem frameWith_eof (type : Byte) (body : List Byte) (v : U32) :
    (frameWith type body v)[8 + body.length]? = some Config.eof := by
  have hlen : (Config.sof :: (frameBody type body ++ le32 v)).length = 8 + body.length := by
    simp; omega
  rw [← hlen]
  exact List.getElem?_concat_length (l := Config.sof :: (frameBody type body ++ le32 v))

/-- Offsets 1 to 3+L hold the bytes that the CRC covers, for a payload whose length L the Length field can
say (R75, R76). -/
theorem frameWith_coveredSlice (type : Byte) (body : List Byte) (v : U32) (h : body.length < 65536) :
    slice (frameWith type body v) 1 (3 + body.length) = frameBody type body := by
  have hcov := frameWith_covered type body v h
  rwa [coveredBytes, frameWith_rdLen, ofNat16_toNat h] at hcov

/-- Settles O5: `frameWith` has each field at its offset whatever its checksum, and the checksum that
`buildFrame` puts in is that of the covered slice. -/
theorem builtFrameLayout : Obligations.BuiltFrameLayout := by
  intro c type body h
  simp only [buildFrame_eq_frameWith]
  refine ⟨frameWith_length .., frameWith_sof .., frameWith_eof .., frameWith_type .., ?length,
    frameWith_payload .., ?checksum⟩
  case length => rw [frameWith_rdLen, ofNat16_toNat h]
  case checksum => rw [frameWith_stored, frameWith_coveredSlice _ _ _ h]

end Sys2Proof.Machine
end

section
/-! What the CRC and DECODE do with one changed byte (40_crc_engine.md section 3, 41_packet_codec.md R139): the
register of a sequence with a byte replaced, a frame with a payload or checksum byte replaced as a frame again,
and the two laws of R138 and R139. -/

namespace Sys2Proof.Machine

/-- With an odd polynomial, a byte put into a sequence shows in the CRC register unless it was there before.
The bytes before it leave one register on both sides, it makes two of it, and those after it lose nothing. -/
theorem foldl_crcUpdate_set (c : CrcParams) (h : c.poly.getLsbD 0 = true) (x : Byte) (s : List Byte) (i : Nat)
    (r : U32) (heq : (s.set i x).foldl (crcUpdate c) r = s.foldl (crcUpdate c) r) : s.set i x = s := by
  induction s generalizing i r with
  | nil => rfl
  | cons y s ih =>
    cases i with
    | zero =>
      have hreg : crcUpdate c r x = crcUpdate c r y := foldl_injective c h s heq
      rw [List.set_cons_zero, crcUpdate_byte_injective c h r hreg]
    | succ i => rw [List.set_cons_succ, ih i (crcUpdate c r y) heq]

/-- A byte put into a sequence changes the checksum unless it was there before. -/
theorem eq_of_crcCompute_set (c : CrcParams) (h : c.poly.getLsbD 0 = true) {s : List Byte} {i : Nat} {x : Byte}
    (heq : crcCompute c (s.set i x) = crcCompute c s) : s.set i x = s :=
  foldl_crcUpdate_set c h x s i c.init (crcFinal_injective c heq)

/-- Any four bytes are a 32-bit field (00_scope.md R10). -/
theorem exists_le32_eq {l : List Byte} (h : l.length = 4) : ∃ v : U32, le32 v = l := by
  match l, h with
  | [a, b, c, d], _ => exact ⟨_, split32 a b c d⟩

/-- The payload starts at offset 3 of the bytes under the CRC (R76), and the Length field does not see which
bytes it holds. -/
theorem frameBody_set (type : Byte) (body : List Byte) (k : Nat) (x : Byte) :
    (frameBody type body).set (k + 3) x = frameBody type (body.set k x) := by
  simp [frameBody, le16]

/-- A frame with a payload byte replaced is the frame around the other payload, with the old checksum. -/
theorem frameWith_set_payload (type : Byte) (body : List Byte) (v : U32) {k : Nat} (x : Byte)
    (hk : k < body.length) :
    (frameWith type body v).set (k + 4) x = frameWith type (body.set k x) v := by
  have hlt : k + 3 < (frameBody type body).length := by simp; omega
  unfold frameWith
  rw [List.set_cons_succ, List.append_assoc, List.set_append_left _ _ hlt, frameBody_set, List.append_assoc]

/-- A frame with a checksum byte replaced is the frame around the same payload, with another checksum. -/
theorem frameWith_set_checksum (type : Byte) (body : List Byte) (v : U32) {k : Nat} (x : Byte) (hk : k < 4) :
    ∃ w : U32, (frameWith type body v).set (body.length + 4 + k) x = frameWith type body w := by
  obtain ⟨w, hw⟩ := exists_le32_eq (l := (le32 v).set k x) (by simp)
  have hi : body.length + 4 + k = (frameBody type body).length + k + 1 := by simp; omega
  have hge : (frameBody type body).length ≤ (frameBody type body).length + k := Nat.le_add_right ..
  refine ⟨w, ?_⟩
  unfold frameWith
  rw [hi, List.set_cons_succ, List.append_assoc, List.set_append_right _ _ hge, Nat.add_sub_cancel_left,
    List.set_append_left _ _ (by simpa using hk), hw, List.append_assoc]

/-- DECODE of a frame whose checksum is not that of its bytes (41_packet_codec.md R134). -/
theorem decodeFrame_frameWith_of_ne {c : CrcParams} {type : Byte} {body : List Byte} {v : U32}
    (h : body.length < 65536) (hv : crcCompute c (frameBody type body) ≠ v) :
    decodeFrame c (frameWith type body v) = .error .integrity := by
  rw [decodeFrame_frameWith c type body v h, if_pos hv]

/-- DECODE of a frame with the checksum of its bytes and a Type code that exists (R136). -/
theorem decodeFrame_buildFrame (c : CrcParams) {type : Byte} {body : List Byte}
    (h : body.length < 65536) (ht : ¬ Config.typeResponse < type) :
    decodeFrame c (buildFrame c type body) = .ok
      { type := type, length := BitVec.ofNat 16 body.length, payload := body,
        checksum := crcCompute c (frameBody type body) } := by
  rw [buildFrame_eq_frameWith, decodeFrame_frameWith c type body _ h, if_neg (not_not_intro rfl), if_neg ht]

/-- What ENCODE answers is the frame of a packet it accepts (R120, R121). -/
theorem encodePacket_eq_some_iff {p : Params} {type : Byte} {body f : List Byte} :
    encodePacket p type body = some f ↔
      encodeAccepts p type body = true ∧ f = buildFrame p.crc type body := by
  rw [encodePacket, Option.ite_none_right_eq_some, Option.some.injEq, eq_comm (a := f)]

/-- A payload byte of a built frame that is changed is an integrity error: the checksum field still holds the
checksum of the old bytes. -/
theorem decodeFrame_set_payload {c : CrcParams} (hc : c.poly.getLsbD 0 = true) {type : Byte} {body : List Byte}
    (h : body.length < 65536) {k : Nat} {x : Byte} (hk : k < body.length)
    (hne : (buildFrame c type body).set (k + 4) x ≠ buildFrame c type body) :
    decodeFrame c ((buildFrame c type body).set (k + 4) x) = .error .integrity := by
  rw [buildFrame_eq_frameWith, frameWith_set_payload _ _ _ _ hk] at hne ⊢
  refine decodeFrame_frameWith_of_ne (by simpa using h) fun hcrc => hne ?_
  have hsame : frameBody type (body.set k x) = frameBody type body := by
    rw [← frameBody_set] at hcrc ⊢
    exact eq_of_crcCompute_set c hc hcrc
  rw [frameWith, hsame, frameWith]

/-- A checksum byte of a built frame that is changed is an integrity error: the covered bytes are the old ones,
and the field holds another checksum. -/
theorem decodeFrame_set_checksum {c : CrcParams} {type : Byte} {body : List Byte}
    (h : body.length < 65536) {k : Nat} {x : Byte} (hk : k < 4)
    (hne : (buildFrame c type body).set (body.length + 4 + k) x ≠ buildFrame c type body) :
    decodeFrame c ((buildFrame c type body).set (body.length + 4 + k) x) = .error .integrity := by
  rw [buildFrame_eq_frameWith] at hne ⊢
  obtain ⟨w, hw⟩ := frameWith_set_checksum type body (crcCompute c (frameBody type body)) x hk
  rw [hw] at hne ⊢
  exact decodeFrame_frameWith_of_ne h fun hcrc => hne (by rw [hcrc])

/-- Settles O7: what ENCODE accepts fits the Length field and has a Type code, so DECODE finds no fault in its
frame. -/
theorem decodeOfEncodedPacket : Obligations.DecodeOfEncodedPacket := by
  intro p type body hp ha
  obtain ⟨hlen, htype⟩ := encodeAccepts_length hp ha
  exact ⟨_, encodePacket_eq_some_iff.mpr ⟨ha, rfl⟩, decodeFrame_buildFrame p.crc hlen htype⟩

/-- Settles O10: the replaced byte is one of the payload or one of the checksum. -/
theorem payloadOrChecksumChangeIsIntegrityError : Obligations.PayloadOrChecksumChangeIsIntegrityError := by
  intro p type body f i x hp hf hlo hhi hx
  obtain ⟨ha, rfl⟩ := encodePacket_eq_some_iff.mp hf
  obtain ⟨hlen, -⟩ := encodeAccepts_length hp ha
  obtain ⟨-, -, -, -, hodd⟩ := legal_bounds hp
  have hne : (buildFrame p.crc type body).set i x ≠ buildFrame p.crc type body := fun heq => hx <| by
    rw [← heq, List.getElem?_set_self (by rw [buildFrame_length]; omega)]
  rcases Nat.lt_or_ge i (body.length + 4) with hpay | hchk
  case inl =>
    obtain ⟨k, rfl⟩ := Nat.exists_eq_add_of_le' hlo
    exact decodeFrame_set_payload hodd hlen (by omega) hne
  case inr =>
    obtain ⟨k, rfl⟩ := Nat.exists_eq_add_of_le hchk
    exact decodeFrame_set_checksum hlen (by omega) hne

end Sys2Proof.Machine
end

section
/-! The transport errors of an exchange step (42_transfer_session.md R165, R166, R176): TX and RX of a session
that is left alone as equations of the whole step, and the two ways a step can meet a TransportError. -/

namespace Sys2Proof.Machine

/-- TX writes the frame register whatever it holds, a packet kind or not (R165). -/
theorem step_tx {s : State} (hl : s.params.legal = true) (hu : Undisturbed s) (ha : s.st.active = true)
    (hp : s.ph = .tx) : step s = .next (loadInputs (sendFrame s.frame s)) := by
  obtain ⟨hreset, hcancel⟩ := hu
  have hraw : exchangeRaw s = .next (sendFrame s.frame s) := by rw [exchangeRaw, hp]
  rw [step_exchange s hl ha hreset hcancel, hraw, mapNext]

/-- RX is one response read (R166). -/
theorem step_rx {s : State} (hl : s.params.legal = true) (hu : Undisturbed s) (ha : s.st.active = true)
    (hp : s.ph = .rx) : step s = mapNext loadInputs (receiveStep s) := by
  obtain ⟨hreset, hcancel⟩ := hu
  have hraw : exchangeRaw s = receiveStep s := by rw [exchangeRaw, hp]
  rw [step_exchange s hl ha hreset hcancel, hraw]

/-- A response read that ends in TransportError goes to FAIL without a look at `attempt` (R166, R176). -/
theorem receiveStep_error {s : State} {rest : List RxEvent}
    (h : rxReadExact Config.rspFrameLen s.rx = .error rest) :
    receiveStep s = .next (failWith .transport { s with rx := rest }) := by
  rw [receiveStep, h]

/-- Settles O30: the step is TX of the frame register, and `tx_status` says which of its two ends it takes. -/
theorem txStepWritesFrameRegister : Obligations.TxStepWritesFrameRegister := by
  intro s hl hu ha hp
  refine ⟨fun hok => ?accepted, fun n herr => ?failed⟩
  case accepted => rw [step_tx hl hu ha hp, sendFrame_ok s.frame s hok]
  case failed => rw [step_tx hl hu ha hp, sendFrame_error s.frame s n herr]

/-- Settles O31: the failed write is that of `txStepWritesFrameRegister`, with the drawn prefix on the wire; the
failed read ends in the failure procedure. -/
theorem transportErrorsAreFatal : Obligations.TransportErrorsAreFatal := by
  intro s hl hu ha
  refine ⟨fun n hp herr => ?write, fun rest hp herr => ?read⟩
  case write =>
    obtain ⟨-, hfail⟩ := txStepWritesFrameRegister s hl hu ha hp
    exact ⟨_, hfail n herr, loadInputs_st _, loadInputs_cause _, loadInputs_own _, s.frame.take n,
      loadInputs_outs _⟩
  case read =>
    rw [step_rx hl hu ha hp, receiveStep_error herr, mapNext]
    rfl

end Sys2Proof.Machine
end

section
/-! The CRC engine (40_crc_engine.md): its computation as a function of the bytes (R105), its register operations
bit by bit (R102 to R104), and what one changed byte does to a checksum. -/

namespace Sys2Proof.Machine

/-- Settles O1: the updates write `crc_reg` alone, and CRC_INIT has overwritten what it held before. -/
theorem crcComputeIsPure : Obligations.CrcComputeIsPure := by
  refine ⟨fun s bytes => ?writesCrcRegAlone, fun c => rfl, by decide +kernel⟩
  rw [opCrcCompute, opCrcUpdates_eq]
  rfl

/-- The shift of R103 looks at bit 31, the most significant one. -/
theorem crcShift_eq (poly r : U32) :
    crcShift poly r = if r.getLsbD 31 then (r <<< 1) ^^^ poly else r <<< 1 := by
  rw [crcShift, BitVec.msb_eq_getLsbD_last]

/-- Settles O2: `crcShifts 8` is eight times the shift of R103. -/
theorem crcRegisterOperations : Obligations.CrcRegisterOperations := by
  refine ⟨fun s => rfl, fun s b => ?update, fun s => rfl, by decide +kernel, by decide +kernel⟩
  simp only [opCrcUpdate, crcUpdate, crcShifts, crcShift_eq]

/-- Settles O3: both reflections are the library's bit reversal. -/
theorem reflectionReversesBits : Obligations.ReflectionReversesBits := by
  constructor
  case left =>
    intro b i hi
    rw [reflect8, BitVec.getLsbD_reverse, BitVec.getMsbD]
    simp [show 7 - i < 8 by omega, show 7 - (7 - i) = i by omega]
  case right =>
    intro v i hi
    rw [reflect32, BitVec.getLsbD_reverse, BitVec.getMsbD]
    simp [show 31 - i < 32 by omega, show 31 - (31 - i) = i by omega]

/-- Sequences of one length that agree everywhere but at `i`: one is the other with its byte `i` replaced. -/
theorem exists_set_eq {a b : List Byte} {i : Nat} (hlen : a.length = b.length) (hi : a[i]? ≠ b[i]?)
    (hrest : ∀ j, j ≠ i → a[j]? = b[j]?) : ∃ x, b.set i x = a := by
  have hlt : i < a.length := by
    by_contra hge
    exact hi (by rw [List.getElem?_eq_none (by omega), List.getElem?_eq_none (by omega)])
  refine ⟨a[i], List.ext_getElem? fun j => ?_⟩
  rcases eq_or_ne i j with rfl | hj
  · rw [List.getElem?_set_self (by omega), List.getElem?_eq_getElem hlt]
  · rw [List.getElem?_set_ne hj, hrest j hj.symm]

/-- Settles O4: the replaced byte shows in the register (`eq_of_crcCompute_set`). -/
theorem crcDetectsSingleByteChange : Obligations.CrcDetectsSingleByteChange := by
  intro c hodd a b i hlen hi hrest hcrc
  obtain ⟨x, rfl⟩ := exists_set_eq hlen hi hrest
  exact hi (by rw [eq_of_crcCompute_set c hodd hcrc])

end Sys2Proof.Machine
end

section
/-! The packet codec on whole packet kinds (41_packet_codec.md): the two round trips, the changed bytes that are
no payload and no checksum, DECODE and ENCODE as tables of their checks, and CLASSIFY of the two responses. -/

namespace Sys2Proof.Machine

/-! ### Round trips -/

/-- DECODE of the frame of a kind is the kind, whatever its operands (30_encoding.md R83). -/
theorem decode_buildFrame (p : Params) (i : Instr) (h : (payload i).length < 65536) :
    decode p (buildFrame p.crc (typeCode i) (payload i)) = .ok i := by
  rw [decode, decodeFrame_buildFrame p.crc h (typeCode_le i)]
  simp only [kindOf_typeCode_payload]

/-- The payload of a well-formed kind fits the Length field (R75). -/
theorem payload_length_of_wf {p : Params} (hp : p.legal = true) {i : Instr} (h : i.wf p = true) :
    (payload i).length < 65536 :=
  (encodeAccepts_length hp (wf_accepts h)).1

/-- Settles O8: ENCODE accepts a well-formed kind, and its frame decodes to the kind. -/
theorem decodeOfEncodedKind : Obligations.DecodeOfEncodedKind := fun p i hp hw =>
  ⟨_, encode_eq_of_wf hw, decode_buildFrame p i (payload_length_of_wf hp hw)⟩

/-- Settles O9: bytes that decode to a kind are that kind's frame (`decode_ok_inv`). -/
theorem encodeOfDecodedKind : Obligations.EncodeOfDecodedKind := by
  intro p b i hd hw
  obtain ⟨hb, -⟩ := decode_ok_inv hd
  rw [encode_eq_of_wf hw, ← hb]

/-! ### Changed bytes -/

/-- Checks 1 to 4 are made before the others (41_packet_codec.md R130 to R133). -/
theorem decodeFrame_of_shapeError {c : CrcParams} {b : List Byte} {k : DecodeError}
    (h : decodeShapeError b = some k) : decodeFrame c b = .error k := by
  rw [decodeFrame, h]

/-- Check 1 (R130). -/
theorem shapeError_of_sof {b : List Byte} (h : b.head? ≠ some Config.sof) :
    decodeShapeError b = some .framing := by
  rw [decodeShapeError, if_pos h]

/-- Check 3 (R132). -/
theorem shapeError_of_length {b : List Byte} (h1 : b.head? = some Config.sof) (h2 : 9 ≤ b.length)
    (h3 : b.length - 9 ≠ (rdLE16 b 2).toNat) : decodeShapeError b = some .lengthMismatch := by
  rw [decodeShapeError, if_neg (not_not_intro h1), if_neg (Nat.not_lt.mpr h2), if_pos h3]

/-- Check 4 (R133). -/
theorem shapeError_of_eof {b : List Byte} (h1 : b.head? = some Config.sof) (h2 : 9 ≤ b.length)
    (h3 : b.length - 9 = (rdLE16 b 2).toNat) (h4 : b.getLast? ≠ some Config.eof) :
    decodeShapeError b = some .framing := by
  rw [decodeShapeError, if_neg (not_not_intro h1), if_neg (Nat.not_lt.mpr h2), if_neg (not_not_intro h3),
    if_pos h4]

/-- A 16-bit field says which two bytes it was read from. -/
theorem le16_rdLE16 (s : List Byte) (i : Nat) : le16 (rdLE16 s i) = [s.getD i 0, s.getD (i + 1) 0] :=
  split16 _ _

/-- Bytes outside a 16-bit field do not matter to it. -/
theorem rdLE16_set_of_ne (s : List Byte) {i j : Nat} (x : Byte) (h0 : j ≠ i) (h1 : j ≠ i + 1) :
    rdLE16 (s.set j x) i = rdLE16 s i := by
  simp only [rdLE16, List.getD_eq_getElem?_getD, List.getElem?_set_ne h0, List.getElem?_set_ne h1]

/-- A frame with its Type byte replaced is the frame of the other Type code, with the old checksum. -/
theorem frameWith_set_type (type : Byte) (body : List Byte) (v : U32) (x : Byte) :
    (frameWith type body v).set 1 x = frameWith x body v := rfl

/-- A changed Type byte is an integrity error: the checksum field still holds the checksum of the old bytes. -/
theorem decodeFrame_set_type {c : CrcParams} (hc : c.poly.getLsbD 0 = true) {type : Byte} {body : List Byte}
    (h : body.length < 65536) {x : Byte} (hx : x ≠ type) :
    decodeFrame c ((buildFrame c type body).set 1 x) = .error .integrity := by
  rw [buildFrame_eq_frameWith, frameWith_set_type]
  refine decodeFrame_frameWith_of_ne h fun hcrc => hx ?_
  have hsame : (frameBody type body).set 0 x = frameBody type body := eq_of_crcCompute_set c hc hcrc
  exact (List.cons.inj hsame).1

/-- A changed Length byte is a length mismatch: the two bytes say another length than the frame has. -/
theorem decodeFrame_set_length {c : CrcParams} {type : Byte} {body : List Byte} (h : body.length < 65536)
    {k : Nat} {x : Byte} (hk : k = 2 ∨ k = 3) (hx : (buildFrame c type body)[k]? ≠ some x) :
    decodeFrame c ((buildFrame c type body).set k x) = .error .lengthMismatch := by
  have hlen : ((buildFrame c type body).set k x).length = 9 + body.length := by simp [buildFrame_length]
  refine decodeFrame_of_shapeError (shapeError_of_length ?sof (by omega) fun hsame => hx ?_)
  case sof => rcases hk with rfl | rfl <;> rfl
  have hfield : rdLE16 ((buildFrame c type body).set k x) 2 = rdLE16 (buildFrame c type body) 2 := by
    apply BitVec.eq_of_toNat_eq
    rw [← hsame, hlen, buildFrame_eq_frameWith, frameWith_rdLen, ofNat16_toNat h, Nat.add_sub_cancel_left]
  have hbytes := congrArg le16 hfield
  rw [le16_rdLE16, le16_rdLE16] at hbytes
  obtain ⟨h2, h3⟩ : _ ∧ _ := by simpa using hbytes
  rcases hk with rfl | rfl
  · exact congrArg some h2.symm
  · exact congrArg some h3.symm

/-- A changed end marker is a framing error. -/
theorem decodeFrame_set_eof {c : CrcParams} {type : Byte} {body : List Byte} (h : body.length < 65536)
    {x : Byte} (hx : x ≠ Config.eof) :
    decodeFrame c ((buildFrame c type body).set (8 + body.length) x) = .error .framing := by
  have hlen : ((buildFrame c type body).set (8 + body.length) x).length = 9 + body.length := by
    simp [buildFrame_length]
  refine decodeFrame_of_shapeError (shapeError_of_eof ?sof (by omega) ?length ?eof)
  case sof =>
    rw [List.head?_eq_getElem?, List.getElem?_set_ne (by omega)]
    rfl
  case length =>
    rw [rdLE16_set_of_ne _ _ (by omega) (by omega), hlen, buildFrame_eq_frameWith, frameWith_rdLen,
      ofNat16_toNat h, Nat.add_sub_cancel_left]
  case eof =>
    have hlast : 9 + body.length - 1 = 8 + body.length := by omega
    rw [List.getLast?_eq_getElem?, hlen, hlast, List.getElem?_set_self (by rw [buildFrame_length]; omega)]
    exact fun heq => hx (Option.some.inj heq)

/-- Settles O11: one lemma for each of the other fields of a frame. -/
theorem otherSingleByteChanges : Obligations.OtherSingleByteChanges := by
  intro p type body f x hp hf
  obtain ⟨ha, rfl⟩ := encodePacket_eq_some_iff.mp hf
  obtain ⟨hlen, -⟩ := encodeAccepts_length hp ha
  obtain ⟨-, -, -, -, hodd⟩ := legal_bounds hp
  refine ⟨fun hx => ?sof, decodeFrame_set_type hodd hlen, decodeFrame_set_length hlen (.inl rfl),
    decodeFrame_set_length hlen (.inr rfl), decodeFrame_set_eof hlen⟩
  case sof => exact decodeFrame_of_shapeError (shapeError_of_sof fun heq => hx (Option.some.inj heq))

/-! ### The checks of DECODE and ENCODE, and known frames -/

/-- The payload of a Header with zero reserved fields (30_encoding.md R78). -/
theorem payload_header (size checksum : U32) :
    payload (.header size checksum 0 0) = le32 size ++ le32 checksum ++ zeros 8 := rfl

/-- Settles O6: the frame is `buildFrame` of the Header payload, which is a list of 25 bytes. -/
theorem headerFrameBytes : Obligations.HeaderFrameBytes := by
  refine fun p size checksum => ⟨_, rfl, ?_⟩
  rw [encode_eq_of_wf (by rfl), payload_header, buildFrame_eq_frameWith, typeCode, Config.typeHeader]
  simp [frameWith, frameBody, le16, le32, zeros, List.replicate, Config.sof, Config.eof]

/-- Settles O12: the checks of `decodeShapeError`, then those of `decodeFrame`. -/
theorem decodeChecksInOrder : Obligations.DecodeChecksInOrder := by
  intro c b
  have hsof : (b.length < 1 ∨ b[0]? ≠ some 0xAA) ↔ b.head? ≠ some Config.sof := by
    cases b <;> simp [Config.sof]
  have htype : (b.getD 1 0).toNat > 3 ↔ Config.typeResponse < b.getD 1 0 := by
    rw [BitVec.lt_def]; rfl
  simp only [decodeFrame, decodeShapeError, coveredBytes, hsof, htype, ← List.getLast?_eq_getElem?]
  by_cases h1 : b.head? ≠ some Config.sof
  · simp only [if_pos h1]
  by_cases h2 : b.length < 9
  · simp only [if_neg h1, if_pos h2]
  by_cases h3 : b.length - 9 ≠ (rdLE16 b 2).toNat
  · simp only [if_neg h1, if_neg h2, if_pos h3]
  by_cases h4 : b.getLast? ≠ some Config.eof
  · simp only [if_neg h1, if_neg h2, if_neg h3, if_pos h4, if_pos (show b.getLast? ≠ some 0xBB from h4)]
  · simp only [if_neg h1, if_neg h2, if_neg h3, if_neg h4, if_neg (show ¬ b.getLast? ≠ some 0xBB from h4)]
    rfl

/-- The packets that ENCODE accepts (41_packet_codec.md R121). -/
theorem encodeAccepts_iff (p : Params) (type : Byte) (body : List Byte) :
    encodeAccepts p type body = true ↔
      (type = 0x00 ∧ (body = [0x00] ∨ body = [0x01] ∨ body = [0x02])) ∨
      (type = 0x02 ∧ body.length = 16) ∨
      (type = 0x01 ∧ body.length ≤ p.maxChunk) ∨
      (type = 0x03 ∧ (body = [0x00] ∨ body = [0x01])) := by
  unfold encodeAccepts
  split
  case isTrue h =>
    subst h
    simp [Config.typeCommand, Config.codeStart, Config.codeEnd, Config.cancelCode, or_assoc]
  split
  case isTrue h => subst h; simp [Config.typeHeader]
  split
  case isTrue h => subst h; simp [Config.typeData]
  split
  case isTrue h => subst h; simp [Config.typeResponse, Config.codeAck, Config.codeNack]
  case isFalse h0 h2 h1 h3 =>
    refine iff_of_false Bool.false_ne_true ?_
    rintro (⟨h, -⟩ | ⟨h, -⟩ | ⟨h, -⟩ | ⟨h, -⟩)
    exacts [h0 h, h2 h, h1 h, h3 h]

/-- Settles O13: ENCODE answers a frame exactly for what `encodeAccepts` accepts. -/
theorem encodeRefusesExactlyIllFormed : Obligations.EncodeRefusesExactlyIllFormed := by
  intro p type body
  refine ⟨?accepts, fun f hf => (encodePacket_eq_some_iff.mp hf).2⟩
  case accepts =>
    rw [← encodeAccepts_iff, Option.ne_none_iff_exists']
    simp only [encodePacket_eq_some_iff, exists_eq_right]

/-- Bytes that are the frame of a kind decode to it. -/
theorem decode_of_eq {p : Params} {b : List Byte} {i : Instr} (h : (payload i).length < 65536)
    (hb : b = buildFrame p.crc (typeCode i) (payload i)) : decode p b = .ok i :=
  hb ▸ decode_buildFrame p i h

/-- Settles O14: each frame is the one built for its kind. -/
theorem knownFramesDecode : Obligations.KnownFramesDecode := by
  refine ⟨decode_of_eq (i := .cmdStart) (by decide) ?_, decode_of_eq (i := .cmdCancel) (by decide) ?_,
    decode_of_eq (i := .header _ _ _ _) (by decide) ?_, decode_of_eq (i := .data _) (by decide) ?_,
    decode_of_eq (i := .rspNack) (by decide) ?_⟩ <;>
  decide +kernel

/-! ### CLASSIFY -/

/-- Only the NACK frame is classified as NACK. -/
theorem classify_nack {p : Params} {b : List Byte} (h : classify p.crc b = .nack) : b = nackFrame p := by
  unfold classify at h
  split at h
  case h_1 => cases h
  case h_2 pkt hd =>
    obtain ⟨hb, -⟩ := decodeFrame_ok_inv hd
    split at h
    · cases h
    next htype =>
      split at h
      · cases h
      split at h
      next hcode => rw [hb, not_not.mp htype, hcode]; rfl
      · cases h

/-- The ACK frame is an ACK (42_transfer_session.md R167). -/
theorem classify_ackFrame (p : Params) : classify p.crc (ackFrame p) = .ack := by
  rw [ackFrame, classify_frame _ _ _ (by decide) (by decide)]
  rfl

/-- The NACK frame is a NACK (R167). -/
theorem classify_nackFrame (p : Params) : classify p.crc (nackFrame p) = .nack := by
  rw [nackFrame, classify_frame _ _ _ (by decide) (by decide)]
  rfl

/-- Settles O15. -/
theorem onlyTheAckFrameIsAck : Obligations.OnlyTheAckFrameIsAck := fun p _ =>
  ⟨⟨classify_ack, fun h => h ▸ classify_ackFrame p⟩, ⟨classify_nack, fun h => h ▸ classify_nackFrame p⟩⟩

end Sys2Proof.Machine
end

section
/-! The byte spaces (20_memory.md section 1): what a response read answers for each shape of the receive stream,
and what an image read gives. -/

namespace Sys2Proof.Machine

/-- Bytes that stand in the stream are taken one by one (R55). -/
theorem readFrom_arrived {n : Nat} (m arrived : List Byte) (rest : List RxEvent) (h : m.length ≤ n) :
    readFrom n arrived (m.map RxEvent.byte ++ rest) = readFrom (n - m.length) (arrived ++ m) rest := by
  induction m generalizing n arrived with
  | nil => simp
  | cons x m ih =>
    rw [List.length_cons] at h
    rw [List.map_cons, List.cons_append, readFrom, if_neg (by omega), ih _ (by omega), List.length_cons,
      List.append_assoc, List.singleton_append]
    congr 1
    omega

/-- A deadline that passes before the last byte ends the read in Timeout (R55, R56). -/
theorem rxReadExact_timeout {n : Nat} (arrived : List Byte) (k : Nat) (tail : List RxEvent)
    (h : arrived.length < n) :
    rxReadExact n (arrived.map RxEvent.byte ++ .timeout k :: tail) =
      .timeout ((arrived.drop k).map RxEvent.byte ++ tail) := by
  rw [rxReadExact, readFrom_arrived _ _ _ h.le, readFrom, if_neg (by omega)]
  rfl

/-- A hard error before the last byte ends the read in TransportError (R55, R56). -/
theorem rxReadExact_error {n : Nat} (arrived : List Byte) (k : Nat) (tail : List RxEvent)
    (h : arrived.length < n) :
    rxReadExact n (arrived.map RxEvent.byte ++ .error k :: tail) =
      .error ((arrived.drop k).map RxEvent.byte ++ tail) := by
  rw [rxReadExact, readFrom_arrived _ _ _ h.le, readFrom, if_neg (by omega)]
  rfl

/-- A read that has not got all its bytes waits. -/
theorem rxReadExact_waiting {n : Nat} (arrived : List Byte) (h : arrived.length < n) :
    rxReadExact n (arrived.map RxEvent.byte) = .waiting := by
  have hread := readFrom_arrived arrived [] [] h.le
  rw [List.append_nil] at hread
  rw [rxReadExact, hread, readFrom, if_neg (by omega)]

/-- A read answers bytes exactly if they stand at the head of the stream (R57). -/
theorem rxReadExact_eq_bytes_iff {n : Nat} {stream rest : List RxEvent} {b : List Byte} :
    rxReadExact n stream = .bytes b rest ↔ b.length = n ∧ stream = b.map RxEvent.byte ++ rest := by
  constructor
  case mp =>
    intro h
    have hspec := readFrom_spec n [] stream
    rw [show readFrom n [] stream = _ from h] at hspec
    obtain ⟨m, hlen, rfl, hstream⟩ := hspec
    exact ⟨hlen, hstream⟩
  case mpr =>
    rintro ⟨hlen, rfl⟩
    exact rxReadExact_bytes b rest n hlen

/-- Settles O16: `readFrom_spec` says what each answer has met, the equations above what each stream answers. -/
theorem readsSkipNothing : Obligations.ReadsSkipNothing := by
  intro n stream
  have hspec := readFrom_spec n [] stream
  refine ⟨fun b rest => rxReadExact_eq_bytes_iff, fun rest => ⟨fun h => ?timeout, ?_⟩,
    fun rest => ⟨fun h => ?error, ?_⟩, ⟨fun h => ?waiting, ?_⟩⟩
  case timeout =>
    rw [show readFrom n [] stream = _ from h] at hspec
    exact hspec
  case error =>
    rw [show readFrom n [] stream = _ from h] at hspec
    exact hspec
  case waiting =>
    rw [show readFrom n [] stream = _ from h] at hspec
    exact hspec
  · rintro ⟨arrived, k, tail, hlt, rfl, rfl⟩
    exact rxReadExact_timeout arrived k tail hlt
  · rintro ⟨arrived, k, tail, hlt, rfl, rfl⟩
    exact rxReadExact_error arrived k tail hlt
  · rintro ⟨arrived, hlt, rfl⟩
    exact rxReadExact_waiting arrived hlt

/-- An image read inside the image (R51). -/
theorem imgRead_inside {s : State} {off n : Nat} (h : off + n ≤ s.img.length) :
    imgRead s off n = some ((s.img.drop off).take n) := by
  rw [imgRead, if_pos h]

/-- Settles O17. -/
theorem imageReadStaysInside : Obligations.ImageReadStaysInside := by
  intro s off n
  refine ⟨fun h => ⟨_, imgRead_inside h, ?length, fun k hk => ?bytes⟩, loadChunk_fault off n s⟩
  case length => rw [List.length_take, List.length_drop]; omega
  case bytes => rw [List.getElem?_take_of_lt hk, List.getElem?_drop]

end Sys2Proof.Machine
end

section
/-! What `exec` does with one packet kind (42_transfer_session.md section 2): the exchange of a kind in phase TX
and in phase RX, ADVANCE state by state, and the CANCEL step. -/

namespace Sys2Proof.Machine

/-! ### Phase TX -/

/-- A well-formed kind in phase TX puts its frame on TX and awaits the response (R165). -/
theorem exec_tx_ok {i : Instr} {s : State} (hl : s.params.legal = true) (ha : s.st.active = true)
    (hp : s.ph = .tx) (ht : s.inp.txStatus = .ok) (hi : i ≠ .cmdCancel) (hw : i.wf s.params = true) :
    exec i s = .next
      { s with attempt := s.attempt + 1, txAny := true, ph := .rx,
               outs := s.outs ++ [.tx (buildFrame s.params.crc (typeCode i) (payload i))] } := by
  rw [exec_eq_exchange i s hl (absurd · hi), exchange_tx i s ha hp hw, sendFrame_ok _ s ht]

/-- A kind that ENCODE refuses is refused in phase TX (41_packet_codec.md R121). -/
theorem exchange_tx_refused {i : Instr} {s : State} (ha : s.st.active = true) (hp : s.ph = .tx)
    (he : encode s.params i = none) : exchange i s = .refused .encodeRefused := by
  simp [exchange, ha, hp, he]

/-- ENCODE refuses a Data payload of more than MAX_CHUNK bytes (R121). -/
theorem encode_data_over {p : Params} {chunk : List Byte} (h : p.maxChunk < chunk.length) :
    encode p (.data chunk) = none := by
  have hacc : encodeAccepts p Config.typeData chunk = decide (chunk.length ≤ p.maxChunk) := rfl
  rw [encode, typeCode, payload, encodePacket, hacc, decide_eq_false (Nat.not_le.mpr h)]
  rfl

/-- Settles O18. -/
theorem sendingKindsTransmit : Obligations.SendingKindsTransmit := by
  intro s hl ha hp ht
  refine ⟨exec_tx_ok hl ha hp ht (by simp) rfl, exec_tx_ok hl ha hp ht (by simp) rfl,
    fun _ _ _ _ => exec_tx_ok hl ha hp ht (by simp) rfl, fun chunk hc => ?fits, fun chunk hc => ?tooLong⟩
  case fits => exact exec_tx_ok hl ha hp ht (by simp) (decide_eq_true hc)
  case tooLong =>
    rw [exec_eq_exchange _ s hl (by simp), exchange_tx_refused ha hp (encode_data_over hc)]

/-! ### Phase RX: the ACK, one equation of ADVANCE a session state (R168) -/

theorem advance_starting {s : State} (h : s.st = .starting) :
    advance s = advanceStarting { s with attempt := 0, ph := .tx } := by rw [advance, h]

theorem advance_awaitHeaderAck {s : State} (h : s.st = .awaitHeaderAck) :
    advance s = advanceHeader { s with attempt := 0, ph := .tx } := by rw [advance, h]

theorem advance_sendingData {s : State} (h : s.st = .sendingData) :
    advance s = advanceData { s with attempt := 0, ph := .tx } := by rw [advance, h]

theorem advance_awaitEndAck {s : State} (h : s.st = .awaitEndAck) :
    advance s = advanceEnd { s with attempt := 0, ph := .tx } := by rw [advance, h]

/-- Settles O19: ADVANCE from STARTING loads the Header. -/
theorem ackOfStartLoadsHeader : Obligations.AckOfStartLoadsHeader := by
  refine ⟨fun s hl hs hp => ?advance, by decide +kernel⟩
  intro body
  rw [exec_ack s hl (by rw [hs]; rfl) hp, advance_starting (by exact hs), advanceStarting,
    loadFrame_next _ _ _ rfl]
  rfl

/-- Settles O20: ADVANCE from AWAIT_HEADER_ACK loads End or the chunk at offset 0. -/
theorem ackOfHeaderLoadsFirstChunk : Obligations.AckOfHeaderLoadsFirstChunk := by
  intro s hl hs hp n
  rw [exec_ack s hl (by rw [hs]; rfl) hp, advance_awaitHeaderAck (by exact hs), advanceHeader]
  refine ⟨fun h0 => ?empty, fun h0 hn => ?inside, fun h0 hn => ?beyond⟩
  case empty =>
    rw [if_pos h0, loadFrame_next _ _ _ rfl]
    rfl
  case inside =>
    rw [if_neg h0, loadChunk_next 0 _ _ (by rw [Nat.zero_add]; exact hn) (Nat.min_le_left ..)]
    rfl
  case beyond => rw [if_neg h0, loadChunk_fault 0 _ _ (by rw [Nat.zero_add]; exact hn)]

/-- Settles O21: ADVANCE from SENDING_DATA counts the chunk, then loads End or the chunk behind it. -/
theorem ackOfDataReportsProgress : Obligations.AckOfDataReportsProgress := by
  intro s hl hs hp sent n chunk
  rw [exec_ack s hl (by rw [hs]; rfl) hp, advance_sendingData (by exact hs), advanceData]
  simp only
  refine ⟨fun h0 => ?last, fun h0 hn => ?inside, fun h0 hn => ?beyond⟩
  case last =>
    rw [if_pos h0, loadFrame_next _ _ _ rfl]
    rfl
  case inside =>
    rw [if_neg h0, loadChunk_next _ _ _ (by exact hn) (by exact Nat.min_le_left ..), hs]
    rfl
  case beyond => rw [if_neg h0, loadChunk_fault _ _ _ (by exact hn)]

/-- Settles O22: ADVANCE from AWAIT_END_ACK. -/
theorem ackOfEndCompletes : Obligations.AckOfEndCompletes := by
  intro s hl hs hp
  rw [exec_ack s hl (by rw [hs]; rfl) hp, advance_awaitEndAck (by exact hs)]
  rfl

/-! ### Phase RX: what is no ACK -/

/-- FAIL as one record update (R178). -/
theorem failWith_eq (c : Cause) (s : State) :
    failWith c s = { s with cause := c, st := .failed, own := false, outs := s.outs ++ [.result (.failed c)] } :=
  rfl

/-- A ten-byte frame that is no ACK, met as a response, goes to RETRY_OR_FAIL (R166, R169). -/
theorem exec_rx_short {i : Instr} {s : State} {o : AttemptOutcome} (hl : s.params.legal = true)
    (ha : s.st.active = true) (hp : s.ph = .rx) (hc : i = .cmdCancel → s.inp.cancel = false)
    (hi : (payload i).length = 1)
    (ho : classify s.params.crc (buildFrame s.params.crc (typeCode i) (payload i)) = o) (hn : o ≠ .ack) :
    exec i s = .next (retryOrFail o (crcRun s.params.crc (frameBody (typeCode i) (payload i))) s) := by
  rw [exec_eq_exchange i s hl (fun h => by rw [hc h, Bool.false_and]), exchange_rx_short i s ha hp hi,
    receive_not_ack _ _ (ho ▸ hn), ho, decodeCrcReg_buildFrame _ _ _ _ (by omega) (typeCode_le i)]

/-- A NACK met as a response (R127, R169). -/
theorem exec_rspNack {s : State} (hl : s.params.legal = true) (ha : s.st.active = true) (hp : s.ph = .rx) :
    exec .rspNack s = .next (retryOrFail .nack (crcRun s.params.crc (frameBody 0x03 [0x01])) s) :=
  exec_rx_short hl ha hp (by simp) rfl (classify_nackFrame s.params) (by simp)

/-- Settles O23: the outcome NACK in RETRY_OR_FAIL. -/
theorem nackRetriesThenRejects : Obligations.NackRetriesThenRejects := by
  intro s hl ha hp reg
  rw [exec_rspNack hl ha hp]
  refine ⟨fun hlt => ?again, fun hge => ?rejected⟩
  case again => rw [retryOrFail_lt _ _ s hlt]
  case rejected => rw [retryOrFail_ge _ _ s hge]; rfl

/-- The frame of a kind that is no Response is of a wrong type (R167). -/
theorem classify_wrongType (c : CrcParams) {i : Instr} (hi : (payload i).length < 65536)
    (ht : typeCode i ≠ Config.typeResponse) :
    classify c (buildFrame c (typeCode i) (payload i)) = .malformed .wrongType := by
  rw [classify_frame c _ _ hi (typeCode_le i), if_pos ht]

/-- Settles O24: the outcome MALFORMED(WRONG_TYPE) in RETRY_OR_FAIL. -/
theorem wrongTypeIsRetriedThenFatal : Obligations.WrongTypeIsRetriedThenFatal := by
  intro s hl ha hp hc i hi reg
  have hshape : (payload i).length = 1 ∧ typeCode i ≠ Config.typeResponse := by
    rcases hi with rfl | rfl | rfl | ⟨b, rfl⟩ <;> exact ⟨rfl, by rw [typeCode]; decide⟩
  obtain ⟨hlen, htype⟩ := hshape
  rw [exec_rx_short hl ha hp (fun _ => hc) hlen (classify_wrongType _ (by omega) htype) (by simp)]
  refine ⟨fun hlt => ?again, fun hge => ?malformed⟩
  case again => rw [retryOrFail_lt _ _ s hlt]
  case malformed => rw [retryOrFail_ge _ _ s hge]; rfl

/-- A 16-bit field inside the first `n` bytes. -/
theorem rdLE16_take (s : List Byte) {i n : Nat} (h : i + 1 < n) : rdLE16 (s.take n) i = rdLE16 s i := by
  simp only [rdLE16, List.getD_eq_getElem?_getD, List.getElem?_take_of_lt h,
    List.getElem?_take_of_lt (Nat.lt_of_succ_lt h)]

/-- The first ten bytes of a Header frame are no frame: its Length field says sixteen (R132). -/
theorem decodeFrame_header_take (c : CrcParams) {body : List Byte} (h : body.length = 16) :
    decodeFrame c ((buildFrame c Config.typeHeader body).take 10) = .error .lengthMismatch := by
  have hten : ((buildFrame c Config.typeHeader body).take 10).length = 10 := by
    rw [List.length_take, buildFrame_length, h]; rfl
  refine decodeFrame_of_shapeError (shapeError_of_length rfl (by omega) ?_)
  have hlen : rdLE16 ((buildFrame c Config.typeHeader body).take 10) 2 = 16 := by
    rw [rdLE16_take _ (by decide), buildFrame_eq_frameWith, frameWith_rdLen, h]
    rfl
  rw [hten, hlen]
  decide

/-- Settles O25: the read takes ten bytes of the Header frame, which fail the length check. -/
theorem longFrameLeavesItsSurplus : Obligations.LongFrameLeavesItsSurplus := by
  intro s size checksum reserved1 reserved2 hl ha hp hlt f
  have hbody : (payload (.header size checksum reserved1 reserved2)).length = 16 := rfl
  have hten : (f.take 10).length = 10 := by rw [List.length_take, buildFrame_length]; rfl
  have herr : decodeFrame s.params.crc (f.take 10) = .error .lengthMismatch := decodeFrame_header_take _ hbody
  have hcl : classify s.params.crc (f.take 10) = .malformed .lengthMismatch := by
    rw [classify, herr]; rfl
  have hrx : f.map RxEvent.byte ++ s.rx = (f.take 10).map .byte ++ ((f.drop 10).map .byte ++ s.rx) := by
    rw [← List.append_assoc, ← List.map_append, List.take_append_drop]
  rw [exec_eq_exchange _ s hl (by simp), exchange_rx _ s ha hp (by omega), receiveStep_bytes _ _ _ hten hrx,
    receive_not_ack _ _ (by rw [hcl]; simp), decodeCrcReg_of_error _ herr, retryOrFail_lt _ _ _ (by exact hlt)]

/-! ### Outside states 1 to 4, CANCEL, and illegal configurations -/

/-- No frame is moved outside states 1 to 4 (R160). -/
theorem exchange_inactive (i : Instr) {s : State} (h : s.st.active = false) : exchange i s = .next s := by
  simp [exchange, h]

/-- Settles O26. -/
theorem noFrameOutsideStatesOneToFour : Obligations.NoFrameOutsideStatesOneToFour := by
  intro s i hl ha hc
  rw [exec_eq_exchange i s hl (fun h => by rw [hc h, Bool.false_and]), exchange_inactive i ha]

/-- CMD_CANCEL under the cancel input is the CANCEL step (R177). -/
theorem exec_cmdCancel {s : State} (hl : s.params.legal = true) (hc : s.inp.cancel = true)
    (ht : s.st.terminal = false) : exec .cmdCancel s = cancelSession s := by
  simp [exec, execCmdCancel, withLegalParams, hl, hc, ht]

/-- The close of a transport that is owned, then FAIL, as one record update (R177, R178). -/
theorem failWith_close (c : Cause) (s : State) :
    failWith c (if s.own then txClose s else s) =
      { s with cause := c, st := .failed, own := false,
               outs := s.outs ++ (if s.own then [.close] else []) ++ [.result (.failed c)] } := by
  cases h : s.own <;> simp [failWith_eq, txClose, emit]

/-- CANCEL before any frame has gone out (R177). -/
theorem cancelSession_silent {s : State} (hs : s.st ≠ .idle) (hx : s.txAny = false) :
    cancelSession s = .next (failWith .cancelled (if s.own then txClose s else s)) := by
  simp [cancelSession, hs, hx]

/-- CANCEL after a frame has gone out (R177). -/
theorem cancelSession_sent {s u : State} (hs : s.st ≠ .idle) (hx : s.txAny = true)
    (hu : u = txWrite (buildFrame s.params.crc 0x00 [0x02]) s) :
    cancelSession s = .next (failWith .cancelled (if u.own then txClose u else u)) := by
  have henc : encode s.params .cmdCancel = some (buildFrame s.params.crc 0x00 [0x02]) := encode_eq_of_wf rfl
  simp only [cancelSession, if_neg hs, hx, if_true, encodeInto, henc, hu]

/-- Settles O27: the three ways of `cancelSession`. -/
theorem cancelEndsSession : Obligations.CancelEndsSession := by
  intro s hl hc ht frame wire cancelled close
  have hwire : sentBytes s.inp.txStatus frame = wire := by
    cases h : s.inp.txStatus <;> simp [sentBytes, wire, h]
  rw [exec_cmdCancel hl hc ht]
  refine ⟨fun hs => ?idle, fun hs hx => ?silent, fun hs hx => ?sent⟩
  case idle =>
    simp only [cancelSession, if_pos hs, failWith_eq, cancelled, List.append_nil]
  case silent => rw [cancelSession_silent hs hx, failWith_close]
  case sent =>
    rw [cancelSession_sent hs hx rfl, failWith_close, txWrite_outs, hwire, List.append_assoc s.outs]
    rfl

/-- Parameters outside the ranges are refused by every packet kind (00_scope.md R8). -/
theorem exec_illegal {s : State} (h : s.params.legal = false) (i : Instr) :
    exec i s = .refused .illegalConfig := by
  cases i <;>
  simp [exec, execCmdStart, execCmdEnd, execCmdCancel, execHeader, execData, execRspAck, execRspNack,
    withLegalParams, h]

/-- A NACK is never refused with legal parameters, in whatever state it is met. -/
theorem exec_rspNack_continues {s : State} (hl : s.params.legal = true) : Continues (exec .rspNack s) := by
  rcases Bool.eq_false_or_eq_true s.st.active with ha | ha
  · cases hp : s.ph with
    | tx => exact ⟨_, by rw [exec_eq_exchange _ s hl (by simp), exchange_tx _ s ha hp rfl]⟩
    | rx => exact ⟨_, exec_rspNack hl ha hp⟩
  · exact ⟨s, by rw [exec_eq_exchange _ s hl (by simp), exchange_inactive _ ha]⟩

/-- Settles O28: with legal parameters `exec` of a NACK is a next state. -/
theorem illegalConfigurationIsRefused : Obligations.IllegalConfigurationIsRefused := by
  intro s
  have hlegal : (1 ≤ s.params.maxChunk ∧ s.params.maxChunk ≤ 65535 ∧ 1 ≤ s.params.maxAttempts ∧
      s.params.maxAttempts ≤ 255 ∧ s.params.crc.poly.getLsbD 0 = true) ↔ s.params.legal = true := by
    simp [Params.legal, and_assoc]
  rw [hlegal]
  constructor
  case mp =>
    intro h
    exact ⟨by rw [step, withLegalParams, if_neg h], exec_illegal (by simpa using h)⟩
  case mpr =>
    rintro ⟨-, hexec⟩ hl
    obtain ⟨t, ht⟩ := exec_rspNack_continues hl
    rw [hexec] at ht
    cases ht

end Sys2Proof.Machine
end

section
/-! One step (42_transfer_session.md R160): which step is selected, the exchange of the packet it fetches,
BEGIN, RESET and the states that take no step. -/

namespace Sys2Proof.Machine

/-! ### Selection -/

/-- With legal parameters a step is the selected one, then the environment's next port levels. -/
theorem step_eq {s : State} (hl : s.params.legal = true) : step s = mapNext loadInputs (stepSelected s) := by
  rw [step, withLegalParams, if_pos hl]

/-- RESET has priority over every other step (R160). -/
theorem stepSelected_reset {s : State} (h : s.inp.reset = true) : stepSelected s = .next (resetRegs s) := by
  simp [stepSelected, selectStep, h]

/-- A terminal state takes no step but RESET (R160). -/
theorem stepSelected_terminal {s : State} (hr : s.inp.reset = false) (ht : s.st.terminal = true) :
    stepSelected s = .next s := by
  simp [stepSelected, selectStep, hr, ht]

/-- CANCEL has priority over BEGIN and the exchange (R160). -/
theorem stepSelected_cancel {s : State} (hr : s.inp.reset = false) (ht : s.st.terminal = false)
    (hc : s.inp.cancel = true) : stepSelected s = exec .cmdCancel s := by
  simp [stepSelected, selectStep, hr, ht, hc]

/-- IDLE without a request takes no step (R160). -/
theorem stepSelected_idle {s : State} (hu : Undisturbed s) (hs : s.st = .idle) (hb : s.inp.beginReq = none) :
    stepSelected s = .next s := by
  obtain ⟨hr, hc⟩ := hu
  simp [stepSelected, selectStep, SessionState.terminal, hr, hc, hs, hb]

/-- A begin request in IDLE is BEGIN, with the request taken from its port (R160, R164). -/
theorem stepSelected_begin {s : State} {src : Source} (hu : Undisturbed s) (hs : s.st = .idle)
    (hb : s.inp.beginReq = some src) : stepSelected s = beginSession src (takeBegin s) := by
  obtain ⟨hr, hc⟩ := hu
  simp [stepSelected, selectStep, SessionState.terminal, hr, hc, hs, hb]

/-- Settles O37. -/
theorem resetReturnsEveryRegister : Obligations.ResetReturnsEveryRegister := by
  intro s hl hr
  rw [step_eq hl, stepSelected_reset hr]
  rfl

/-- Settles O39. -/
theorem terminalStatesAbsorb : Obligations.TerminalStatesAbsorb := by
  refine fun s hl hr => ⟨fun hs => ?terminal, fun hs hc hb => ?idle⟩
  case terminal =>
    have ht : s.st.terminal = true := by rcases hs with h | h <;> rw [h] <;> rfl
    rw [step_eq hl, stepSelected_terminal hr ht, mapNext]
  case idle => rw [step_eq hl, stepSelected_idle ⟨hr, hc⟩ hs hb, mapNext]

/-- Settles O38: the reset state is IDLE without a request. -/
theorem resetStateValues : Obligations.ResetStateValues := by
  refine ⟨fun p => rfl, rfl, ?_⟩
  rw [step_eq rfl, stepSelected_idle ⟨rfl, rfl⟩ rfl rfl]
  rfl

/-- Settles O40. -/
theorem statusPortCodes : Obligations.StatusPortCodes := by
  refine ⟨?states, ?noState7, ?causes, ?noCause7, fun s hs => ?idle, fun s hs => ?failed,
    fun s hs => ?cancelled⟩
  case states => intro a b h; cases a <;> cases b <;> revert h <;> decide
  case noState7 => intro a; cases a <;> decide
  case causes => intro a b h; cases a <;> cases b <;> revert h <;> decide
  case noCause7 => intro a; cases a <;> decide
  case idle => rw [stPort, hs]; rfl
  case failed => rw [stPort, hs]; rfl
  case cancelled => rw [causePort, hs]; rfl

/-! ### BEGIN -/

/-- BEGIN without a usable image (R163). -/
theorem beginSession_fail {s : State} {src : Source}
    (h : src = .unreadable ∨ ∃ bytes, src = .image bytes ∧ 4294967295 < bytes.length) :
    beginSession src s = .next (failWith .file s) := by
  rcases h with rfl | ⟨bytes, rfl, hbig⟩
  · rfl
  · rw [beginSession, if_pos (by exact hbig)]

/-- Settles O34: BEGIN is `begin_ok` on the state without the request. -/
theorem beginStartsSession : Obligations.BeginStartsSession := by
  intro s bytes hl hu hs hb hsize
  rw [step_eq hl, stepSelected_begin hu hs hb, begin_ok _ _ hsize]
  rfl

/-- Settles O35. -/
theorem beginWithoutImageFails : Obligations.BeginWithoutImageFails := by
  intro s src hl hu hs hb hsrc
  rw [step_eq hl, stepSelected_begin hu hs hb, beginSession_fail hsrc]
  rfl

/-! ### The exchange -/

/-- Settles O29: bytes that decode to a kind are its frame, so the step that moves the bytes is the exchange of
the kind. -/
theorem stepRunsDecodedPacket : Obligations.StepRunsDecodedPacket := by
  intro s hl hr
  refine ⟨fun i hc ha hp hd hw => ?tx, fun i b rest hc ha hp hrx hb hd hw => ?rx, fun hc ht => ?cancel⟩
  case tx =>
    obtain ⟨hframe, -⟩ := decode_ok_inv hd
    rw [step_tx hl ⟨hr, hc⟩ ha hp, exec_eq_exchange i s hl (fun _ => by rw [hc, Bool.false_and]),
      exchange_tx i s ha hp hw, ← hframe, mapNext]
  case rx =>
    obtain ⟨hframe, hlen⟩ := decode_ok_inv hd
    rw [step_rx hl ⟨hr, hc⟩ ha hp,
      exec_eq_exchange i { s with rx := rest } hl (fun _ => by rw [hc, Bool.false_and]),
      exchange_rx i { s with rx := rest } ha hp hlen, ← hframe, ← hrx]
  case cancel => rw [step_eq hl, stepSelected_cancel hr ht hc]

/-- The CRC register after a DECODE that succeeds (40_crc_engine.md R105). -/
theorem decodeCrcReg_of_ok {c : CrcParams} {b : List Byte} {pkt : Packet} (reg : U32)
    (h : decodeFrame c b = .ok pkt) : decodeCrcReg c b reg = crcRun c (coveredBytes b) := by
  rw [decodeCrcReg, h]

/-- Settles O32: ten bytes that are no ACK in RETRY_OR_FAIL. -/
theorem failedResponseRetriesThenFails : Obligations.FailedResponseRetriesThenFails := by
  intro s b rest hl hu ha hp hrx hb hack reg cause
  have hreg : decodeCrcReg s.params.crc b s.crcReg = reg := by
    cases h : decodeFrame s.params.crc b with
    | ok pkt => simp only [reg, h, decodeCrcReg_of_ok _ h]; rfl
    | error k => simp only [reg, h, decodeCrcReg_of_error _ h]
  have hcause : causeOf (classify s.params.crc b) = cause := by
    cases h : classify s.params.crc b <;> simp only [cause, h] <;> rfl
  rw [step_rx hl hu ha hp, receiveStep_bytes b rest s hb hrx, receive_not_ack _ _ (by exact hack), mapNext]
  refine ⟨fun hlt => ?again, fun hge => ?failed⟩
  case again => rw [retryOrFail_lt _ _ _ (by exact hlt), hreg]
  case failed => rw [retryOrFail_ge _ _ _ (by exact hge), hcause, failWith_eq]

/-- A response read that ends in Timeout goes to RETRY_OR_FAIL (R166, R169). -/
theorem receiveStep_timeout {s : State} {rest : List RxEvent}
    (h : rxReadExact Config.rspFrameLen s.rx = .timeout rest) :
    receiveStep s = .next (retryOrFail .timeout s.crcReg { s with rx := rest }) := by
  rw [receiveStep, h]

/-- A response read that is not answered waits (R160, R221). -/
theorem receiveStep_waiting {s : State} (h : rxReadExact Config.rspFrameLen s.rx = .waiting) :
    receiveStep s = .next s := by
  rw [receiveStep, h]

/-- Settles O33. -/
theorem timeoutRetriesAndSilenceWaits : Obligations.TimeoutRetriesAndSilenceWaits := by
  intro s hl hu ha hp
  rw [step_rx hl hu ha hp]
  refine ⟨fun rest h hlt => ?again, fun rest h hge => ?failed, fun h => ?waits⟩
  case again => rw [receiveStep_timeout h, retryOrFail_lt _ _ _ (by exact hlt), mapNext]
  case failed => rw [receiveStep_timeout h, retryOrFail_ge _ _ _ (by exact hge), mapNext]; rfl
  case waits => rw [receiveStep_waiting h, mapNext]

end Sys2Proof.Machine
end

section
/-! The begin port outside IDLE (42_transfer_session.md R164): every operation of an exchange, of CANCEL and of
RESET commutes with a change of what stands on that port. -/

namespace Sys2Proof.Machine

/-- `s` with `r` on its begin port. -/
def withBegin (r : Option Source) (s : State) : State := { s with inp := { s.inp with beginReq := r } }

theorem sendFrame_withBegin (f : List Byte) (r : Option Source) (s : State) :
    sendFrame f (withBegin r s) = withBegin r (sendFrame f s) := by
  cases h : s.inp.txStatus with
  | ok => rw [sendFrame_ok f s h, sendFrame_ok f (withBegin r s) h]; rfl
  | error n => rw [sendFrame_error f s n h, sendFrame_error f (withBegin r s) n h]; rfl

theorem retryOrFail_withBegin (o : AttemptOutcome) (reg : U32) (r : Option Source) (s : State) :
    retryOrFail o reg (withBegin r s) = withBegin r (retryOrFail o reg s) := by
  rcases Nat.lt_or_ge s.attempt.toNat s.params.maxAttempts with h | h
  · rw [retryOrFail_lt o reg s h, retryOrFail_lt o reg (withBegin r s) h]; rfl
  · rw [retryOrFail_ge o reg s h, retryOrFail_ge o reg (withBegin r s) h]; rfl

theorem loadFrame_withBegin (i : Instr) (st : SessionState) (r : Option Source) (s : State) :
    loadFrame i st (withBegin r s) = mapNext (withBegin r) (loadFrame i st s) := by
  unfold loadFrame encodeInto
  rw [show (withBegin r s).params = s.params from rfl]
  cases encode s.params i <;> rfl

theorem loadChunk_withBegin (off n : Nat) (r : Option Source) (s : State) :
    loadChunk off n (withBegin r s) = mapNext (withBegin r) (loadChunk off n s) := by
  unfold loadChunk
  rw [show imgRead (withBegin r s) off n = imgRead s off n from rfl]
  cases imgRead s off n with
  | none => rfl
  | some bytes => exact loadFrame_withBegin _ _ r { s with chunkLen := BitVec.ofNat 16 n }

theorem advanceHeader_withBegin (r : Option Source) (s : State) :
    advanceHeader (withBegin r s) = mapNext (withBegin r) (advanceHeader s) := by
  unfold advanceHeader
  rw [show (withBegin r s).imgSize = s.imgSize from rfl]
  split
  · exact loadFrame_withBegin ..
  · exact loadChunk_withBegin ..

theorem advanceData_withBegin (r : Option Source) (s : State) :
    advanceData (withBegin r s) = mapNext (withBegin r) (advanceData s) := by
  unfold advanceData
  simp only [show (withBegin r s).bytesSent = s.bytesSent from rfl,
    show (withBegin r s).chunkLen = s.chunkLen from rfl, show (withBegin r s).imgSize = s.imgSize from rfl]
  generalize s.bytesSent + s.chunkLen.setWidth 32 = sent
  split
  · exact loadFrame_withBegin _ _ r (emit (.progress sent) { s with bytesSent := sent })
  · exact loadChunk_withBegin _ _ r (emit (.progress sent) { s with bytesSent := sent })

/-- Outside states 1 to 4 there is no packet to advance from. -/
theorem advance_inactive {s : State} (h : s.st.active = false) : advance s = .next s := by
  cases hs : s.st <;> simp_all [advance, SessionState.active]

theorem advance_withBegin (r : Option Source) (s : State) :
    advance (withBegin r s) = mapNext (withBegin r) (advance s) := by
  rcases Bool.eq_false_or_eq_true s.st.active with ha | ha
  · cases hs : s.st with
    | starting =>
      rw [advance_starting hs, advance_starting (s := withBegin r s) hs]
      exact loadFrame_withBegin _ _ r { s with attempt := 0, ph := .tx }
    | awaitHeaderAck =>
      rw [advance_awaitHeaderAck hs, advance_awaitHeaderAck (s := withBegin r s) hs]
      exact advanceHeader_withBegin r { s with attempt := 0, ph := .tx }
    | sendingData =>
      rw [advance_sendingData hs, advance_sendingData (s := withBegin r s) hs]
      exact advanceData_withBegin r { s with attempt := 0, ph := .tx }
    | awaitEndAck =>
      rw [advance_awaitEndAck hs, advance_awaitEndAck (s := withBegin r s) hs]
      rfl
    | idle | complete | failed => rw [hs] at ha; cases ha
  · rw [advance_inactive ha, advance_inactive (s := withBegin r s) ha]
    rfl

theorem receive_withBegin (b : List Byte) (r : Option Source) (s : State) :
    receive b (withBegin r s) = mapNext (withBegin r) (receive b s) := by
  unfold receive
  simp only [show (withBegin r s).params = s.params from rfl, show (withBegin r s).crcReg = s.crcReg from rfl]
  split
  · exact advance_withBegin r { s with crcReg := decodeCrcReg s.params.crc b s.crcReg }
  · exact congrArg Host.Outcome.next (retryOrFail_withBegin ..)

theorem receiveStep_withBegin (r : Option Source) (s : State) :
    receiveStep (withBegin r s) = mapNext (withBegin r) (receiveStep s) := by
  unfold receiveStep
  rw [show (withBegin r s).rx = s.rx from rfl]
  cases rxReadExact Config.rspFrameLen s.rx with
  | waiting => rfl
  | error rest => rfl
  | timeout rest => exact congrArg Host.Outcome.next (retryOrFail_withBegin _ _ r { s with rx := rest })
  | bytes b rest => exact receive_withBegin b r { s with rx := rest }

theorem exchangeRaw_withBegin (r : Option Source) (s : State) :
    exchangeRaw (withBegin r s) = mapNext (withBegin r) (exchangeRaw s) := by
  unfold exchangeRaw
  rw [show (withBegin r s).ph = s.ph from rfl]
  cases s.ph with
  | tx => exact congrArg Host.Outcome.next (sendFrame_withBegin ..)
  | rx => exact receiveStep_withBegin ..

theorem cancelSession_withBegin {s : State} (r : Option Source) (h : s.st ≠ .idle) :
    cancelSession (withBegin r s) = mapNext (withBegin r) (cancelSession s) := by
  cases hx : s.txAny with
  | false =>
    rw [cancelSession_silent h hx, cancelSession_silent (s := withBegin r s) h hx, failWith_close,
      failWith_close]
    rfl
  | true =>
    rw [cancelSession_sent h hx rfl, cancelSession_sent (s := withBegin r s) h hx rfl, failWith_close,
      failWith_close]
    rfl

/-- Outside IDLE the selected step does not look at the begin port. -/
theorem stepSelected_withBegin {s : State} (r : Option Source) (hl : s.params.legal = true)
    (hs : s.st ≠ .idle) : stepSelected (withBegin r s) = mapNext (withBegin r) (stepSelected s) := by
  cases hr : s.inp.reset with
  | true =>
    rw [stepSelected_reset hr, stepSelected_reset (s := withBegin r s) hr]
    rfl
  | false =>
    cases ht : s.st.terminal with
    | true =>
      rw [stepSelected_terminal hr ht, stepSelected_terminal (s := withBegin r s) hr ht]
      rfl
    | false =>
      cases hc : s.inp.cancel with
      | true =>
        rw [stepSelected_cancel hr ht hc, stepSelected_cancel (s := withBegin r s) hr ht hc,
          exec_cmdCancel hl hc ht, exec_cmdCancel (s := withBegin r s) hl hc ht, cancelSession_withBegin r hs]
      | false =>
        have ha := active_of s ht hs
        rw [stepSelected_exchange s hl ha hr hc, stepSelected_exchange (withBegin r s) hl ha hr hc,
          exchangeRaw_withBegin]

/-- What stood on the begin port is forgotten by clearing it after the step. -/
theorem withBegin_loadInputs (r : Option Source) (s : State) :
    withBegin none (loadInputs (withBegin r s)) = withBegin none (loadInputs s) := by
  unfold loadInputs
  rw [show (withBegin r s).later = s.later from rfl]
  cases s.later <;> rfl

theorem mapNext_mapNext (f g : State → State) (o : StepOutcome) :
    mapNext f (mapNext g o) = mapNext (fun s => f (g s)) o := by
  cases o <;> rfl

/-- Illegal parameters are refused by every step (00_scope.md R8). -/
theorem step_illegal {s : State} (h : s.params.legal = false) : step s = .refused .illegalConfig := by
  simp [step, withLegalParams, h]

/-- Settles O36. -/
theorem beginIgnoredOutsideIdle : Obligations.BeginIgnoredOutsideIdle := by
  intro s r hs withRequest forget
  change mapNext (withBegin none) (step (withBegin r s)) = mapNext (withBegin none) (step s)
  cases hl : s.params.legal with
  | false =>
    rw [step_illegal hl, step_illegal (s := withBegin r s) hl]
  | true =>
    rw [step_eq hl, step_eq (s := withBegin r s) hl, stepSelected_withBegin r hl hs]
    simp only [mapNext_mapNext, withBegin_loadInputs]

end Sys2Proof.Machine
end

section
/-! What every step does to the output ports, the frame register, the parameters and the image, and what a
failing step keeps: each a reading of `step_cases`. -/

namespace Sys2Proof.Machine

/-- States 1 to 4 are not terminal (10_state.md R22). -/
theorem terminal_of_active {st : SessionState} (h : st.active = true) : st.terminal = false := by
  cases st <;> simp_all [SessionState.active, SessionState.terminal]

/-- States 1 to 4 are not FAILED. -/
theorem ne_failed_of_active {st : SessionState} (h : st.active = true) : st ≠ .failed := by
  rintro rfl; cases h

/-- States 1 to 4 are not IDLE. -/
theorem ne_idle_of_active {st : SessionState} (h : st.active = true) : st ≠ .idle := by
  rintro rfl; cases h

/-! ### What an ACK keeps -/

/-- The ACK of a packet starts the next one, or ends the session, at attempt 0 of phase TX (R168). -/
theorem AckCase.fresh {s u : State} {rest : List RxEvent} (h : AckCase s rest u) :
    u.attempt = 0 ∧ u.ph = .tx := by
  cases h <;> exact ⟨rfl, rfl⟩

/-- An ACK writes neither the parameters nor the image, and never fails the session. -/
theorem AckCase.keeps {s u : State} {rest : List RxEvent} (h : AckCase s rest u) :
    u.params = s.params ∧ u.img = s.img ∧ u.st ≠ .failed := by
  cases h <;> exact ⟨rfl, rfl, nofun⟩

/-! ### The output ports -/

/-- The frames among what the ports have carried. -/
def framesIn (outs : List PortEvent) : List (List Byte) :=
  outs.filterMap fun e => match e with
    | .tx b => some b
    | .close => none
    | .progress _ => none
    | .result _ => none

theorem resultPulses_append (a b : List PortEvent) :
    resultPulses (a ++ b) = resultPulses a + resultPulses b := by
  simp [resultPulses]

/-- An ACK puts out no frame, and the result exactly when it completes the session (R168, R179). -/
theorem AckCase.outs {s u : State} {rest : List RxEvent} (h : AckCase s rest u) :
    ∃ new, u.outs = s.outs ++ new ∧ framesIn new = [] ∧
      resultPulses new = if u.st.terminal = true then 1 else 0 := by
  cases h with
  | header => exact ⟨[], (List.append_nil _).symm, rfl, rfl⟩
  | noImage => exact ⟨[], (List.append_nil _).symm, rfl, rfl⟩
  | firstChunk => exact ⟨[], (List.append_nil _).symm, rfl, rfl⟩
  | lastChunk => exact ⟨_, rfl, rfl, rfl⟩
  | nextChunk => exact ⟨_, rfl, rfl, rfl⟩
  | complete => exact ⟨_, rfl, rfl, rfl⟩

/-- What a step from `s` to `u` may put out: at most one frame, and the result exactly when it enters a terminal
state (20_memory.md R63, R179). -/
def PutsOut (s u : State) : Prop :=
  ∃ new, u.outs = s.outs ++ new ∧ (framesIn new).length ≤ 1 ∧
    resultPulses new = if s.st.terminal = false ∧ u.st.terminal = true then 1 else 0

/-- A step that enters no terminal state may put out nothing. -/
theorem PutsOut.silent {s u : State} (hout : u.outs = s.outs)
    (hst : s.st.terminal = true ∨ u.st.terminal = false) : PutsOut s u :=
  ⟨[], by rw [hout, List.append_nil], Nat.zero_le _, by rcases hst with h | h <;> simp [h, resultPulses]⟩

/-- A step that fails the session puts out the result once. -/
theorem PutsOut.failing {s u : State} {new : List PortEvent} (hout : u.outs = s.outs ++ new)
    (hst : s.st.terminal = false) (hu : u.st = .failed) (hf : (framesIn new).length ≤ 1)
    (hr : resultPulses new = 1) : PutsOut s u :=
  ⟨new, hout, hf, by rw [hr, hst, hu]; rfl⟩

/-- Every step keeps to it. -/
theorem StepCase.putsOut {s u : State} (h : StepCase s u) : PutsOut s u := by
  cases h with
  | reset => exact .silent rfl (.inr rfl)
  | noStep => exact .silent rfl (by cases s.st.terminal <;> simp)
  | cancelIdle _ _ hs => exact .failing rfl (by rw [hs]; rfl) rfl (by decide) rfl
  | cancelSilent _ _ ha =>
    rw [failWith_close]
    refine .failing (List.append_assoc ..) (terminal_of_active ha) rfl ?_ ?_ <;> cases s.own <;> decide
  | cancelSent _ _ ha _ u hu =>
    rw [failWith_close, hu, txWrite_outs, txWrite_own, List.append_assoc, List.append_assoc]
    refine .failing rfl (terminal_of_active ha) rfl ?_ ?_ <;> cases s.own <;> simp [framesIn, resultPulses]
  | beginFail _ _ hs => exact .failing rfl (by rw [hs]; rfl) rfl (by decide) rfl
  | beginOk => exact .silent rfl (.inr rfl)
  | sent _ _ ha => exact ⟨_, rfl, Nat.le_refl 1, by simp [terminal_of_active ha, resultPulses]⟩
  | sendFailed _ _ ha => exact .failing rfl (terminal_of_active ha) rfl (Nat.le_refl 1) rfl
  | waits _ _ ha => exact .silent rfl (.inr (terminal_of_active ha))
  | readFailed _ _ ha => exact .failing rfl (terminal_of_active ha) rfl (by decide) rfl
  | retry _ _ ha => exact .silent rfl (.inr (terminal_of_active ha))
  | exhausted _ _ ha => exact .failing rfl (terminal_of_active ha) rfl (Nat.zero_le 1) rfl
  | acked _ _ ha _ _ _ _ hu =>
    obtain ⟨new, hout, hf, hr⟩ := hu.outs
    exact ⟨new, hout, by rw [hf]; exact Nat.zero_le 1, by simpa [terminal_of_active ha] using hr⟩

/-- Settles O48. -/
theorem oneFrameAndOneResult : Obligations.OneFrameAndOneResult := by
  intro s t h
  obtain ⟨-, u, rfl, hu⟩ := step_cases h
  obtain ⟨new, hout, hframes, hpulses⟩ := hu.putsOut
  rw [loadInputs_outs, loadInputs_st, hout, resultPulses_append, hpulses]
  exact ⟨⟨new, rfl, hframes⟩, rfl⟩

/-! ### The registers -/

/-- Settles O47: in every other case of a step the packet stays, or the session fails. -/
theorem onlyAckMovesTheSession : Obligations.OnlyAckMovesTheSession := by
  intro s t hu ha h hfail hmoved
  obtain ⟨hr, hc⟩ := hu
  obtain ⟨-, u, rfl, hcase⟩ := step_cases h
  simp only [loadInputs_st, loadInputs_frame, loadInputs_bytesSent] at hfail hmoved
  cases hcase with
  | reset hreset => rw [hr] at hreset; cases hreset
  | noStep _ hna => rw [ha] at hna; cases hna
  | cancelIdle | cancelSilent | cancelSent | beginFail | sendFailed | readFailed | exhausted =>
    exact absurd rfl hfail
  | beginOk _ _ hs => rw [hs] at ha; cases ha
  | sent | waits | retry => simp at hmoved
  | acked _ _ _ hp rest hx => exact ⟨hp, rest, hx⟩

/-- Settles O49. -/
theorem frameBufferIsCoherent : Obligations.FrameBufferIsCoherent := by
  intro s t hr h hframe
  obtain ⟨-, u, rfl, hcase⟩ := step_cases h
  simp only [loadInputs_frame, loadInputs_attempt, loadInputs_ph, loadInputs_st] at hframe ⊢
  cases hcase with
  | reset hreset => rw [hr] at hreset; cases hreset
  | cancelSilent => rw [failWith_close] at hframe; exact absurd rfl hframe
  | cancelSent _ _ _ _ _ hu => rw [failWith_close, hu] at hframe; exact absurd rfl hframe
  | noStep | cancelIdle | beginFail | sent | sendFailed | waits | readFailed | retry | exhausted =>
    exact absurd rfl hframe
  | beginOk _ _ hs => exact ⟨rfl, rfl, .inl ⟨hs, rfl⟩⟩
  | acked _ _ ha hp _ _ _ hu =>
    obtain ⟨hattempt, hph⟩ := hu.fresh
    exact ⟨hattempt, hph, .inr ⟨ha, hp⟩⟩

/-- Settles O50. -/
theorem parametersAndImageAreStable : Obligations.ParametersAndImageAreStable := by
  intro s t h
  obtain ⟨-, u, rfl, hcase⟩ := step_cases h
  simp only [loadInputs_params, loadInputs_img]
  cases hcase with
  | cancelSilent => rw [failWith_close]; exact ⟨rfl, fun _ => rfl⟩
  | cancelSent _ _ _ _ _ hu => rw [failWith_close, hu]; exact ⟨rfl, fun _ => rfl⟩
  | beginOk _ _ hs => exact ⟨rfl, absurd hs⟩
  | acked _ _ _ _ _ _ _ hu =>
    obtain ⟨hparams, himg, -⟩ := hu.keeps
    exact ⟨hparams, fun _ => himg⟩
  | reset | noStep | cancelIdle | beginFail | sent | sendFailed | waits | readFailed | retry | exhausted =>
    exact ⟨rfl, fun _ => rfl⟩

/-- Settles O51. -/
theorem failureIsPrecise : Obligations.FailureIsPrecise := by
  intro s t h hs ht
  obtain ⟨-, u, rfl, hcase⟩ := step_cases h
  simp only [loadInputs_st, loadInputs_own, loadInputs_cause, loadInputs_crcReg, loadInputs_frame,
    loadInputs_bytesSent, loadInputs_chunkLen, loadInputs_imgSize, loadInputs_imgCrc, loadInputs_ph,
    loadInputs_attempt, loadInputs_txAny] at ht ⊢
  cases hcase with
  | reset | beginOk => cases ht
  | noStep | waits => exact absurd ht hs
  | sent _ _ ha | retry _ _ ha => exact absurd ht (ne_failed_of_active ha)
  | acked _ _ _ _ _ _ _ hu =>
    obtain ⟨-, -, hne⟩ := hu.keeps
    exact absurd ht hne
  | cancelSilent =>
    rw [failWith_close]
    exact ⟨rfl, nofun, rfl, rfl, rfl, rfl, rfl, rfl, rfl, .inl ⟨rfl, rfl⟩⟩
  | cancelSent _ _ _ _ u hu =>
    rw [failWith_close, hu]
    exact ⟨rfl, nofun, rfl, rfl, rfl, rfl, rfl, rfl, rfl, .inl ⟨rfl, rfl⟩⟩
  | cancelIdle | beginFail | readFailed =>
    exact ⟨rfl, nofun, rfl, rfl, rfl, rfl, rfl, rfl, rfl, .inl ⟨rfl, rfl⟩⟩
  | exhausted _ _ _ _ _ _ _ ho =>
    exact ⟨rfl, ho.cause, rfl, rfl, rfl, rfl, rfl, rfl, rfl, .inl ⟨rfl, rfl⟩⟩
  | sendFailed _ _ ha hp =>
    exact ⟨rfl, nofun, rfl, rfl, rfl, rfl, rfl, rfl, rfl, .inr ⟨ha, hp, rfl, rfl⟩⟩

end Sys2Proof.Machine
end

section
/-! The session invariant (10_state.md sections 3 and 6): it holds after reset, every step keeps it, and from a
state of it no step stops. -/

namespace Sys2Proof.Machine

/-! ### Arithmetic of the registers -/

/-- `attempt` does not wrap below MAX_ATTEMPTS (10_state.md R24). -/
theorem attempt_succ_toNat {a : Byte} {n : Nat} (h : a.toNat < n) (hn : n ≤ 255) :
    (a + 1).toNat = a.toNat + 1 := by
  rw [BitVec.toNat_add, show (1 : Byte).toNat = 1 from rfl]
  omega

/-- A chunk length fits `chunk_len` (R28). -/
theorem chunkLen_toNat {p : Params} (hl : p.legal = true) {n : Nat} (h : n ≤ p.maxChunk) :
    (BitVec.ofNat 16 n : U16).toNat = n := by
  obtain ⟨-, hmax, -⟩ := legal_bounds hl
  exact ofNat16_toNat (by omega)

/-- An image length that BEGIN accepts fits `img_size` (R25). -/
theorem imgSize_toNat {n : Nat} (h : n ≤ 4294967295) : (BitVec.ofNat 32 n : U32).toNat = n := by
  rw [BitVec.toNat_ofNat, Nat.mod_eq_of_lt (by omega)]

/-- What is left of the image once `sent` bytes of it are acknowledged. -/
theorem toNat_sub_le {size sent : U32} (h : sent.toNat ≤ size.toNat) :
    (size - sent).toNat = size.toNat - sent.toNat :=
  BitVec.toNat_sub_of_le (BitVec.le_def.mpr h)

/-! ### States in which little is asked of the registers -/

/-- Reset registers at legal parameters are a state of the invariant (R38). -/
theorem SessionInv.of_reset {s : State} (hl : s.params.legal = true) : SessionInv (resetRegs s) where
  legal := hl
  attempt_le := Nat.zero_le _
  attempt_lt := fun h => by cases h
  written := fun h => by cases h
  own_active := rfl
  cause_failed := ⟨fun _ => nofun, fun _ => rfl⟩
  sent_le := Nat.le_refl _
  image := fun h => by cases h
  idle_reset := fun _ => rfl
  frame_current := fun h => by cases h
  before_data := fun _ => ⟨rfl, rfl⟩
  chunk := fun h => by cases h
  after_data := fun _ => rfl

/-- A failed session has a cause and has released the transport (60_exceptions.md R213). -/
theorem SessionInv.of_failed {s : State} (hst : s.st = .failed) (hl : s.params.legal = true)
    (hattempt : s.attempt.toNat ≤ s.params.maxAttempts) (hsent : s.bytesSent.toNat ≤ s.imgSize.toNat)
    (hown : s.own = false) (hcause : s.cause ≠ .none) : SessionInv s where
  legal := hl
  attempt_le := hattempt
  attempt_lt := fun h => by rw [hst] at h; cases h
  written := fun h => by rw [hst] at h; cases h
  own_active := by rw [hown, hst]; rfl
  cause_failed := ⟨fun h => absurd h hcause, fun h => absurd hst h⟩
  sent_le := hsent
  image := fun h => by rw [hst] at h; cases h
  idle_reset := fun h => by rw [hst] at h; cases h
  frame_current := fun h => by rw [hst] at h; cases h
  before_data := fun h => by rw [hst] at h; rcases h with h | h <;> cases h
  chunk := fun h => by rw [hst] at h; cases h
  after_data := fun h => by rw [hst] at h; rcases h with h | h <;> cases h

/-- Settles O41: the reset state has reset registers. -/
theorem resetHasSessionInvariant : Obligations.ResetHasSessionInvariant :=
  ⟨SessionInv.of_reset (s := State.reset) rfl, fun p hp => SessionInv.of_reset (s := State.resetWith p) hp⟩

/-! ### What the operations of a step keep -/

/-- The invariant does not look at the environment, at `crc_reg` or at what the ports have carried. -/
theorem SessionInv.env {s : State} (h : SessionInv s) (inp : Inputs) (later : List Inputs) (rx : List RxEvent)
    (outs : List PortEvent) (reg : U32) :
    SessionInv { s with inp := inp, later := later, rx := rx, outs := outs, crcReg := reg } :=
  { h with
    idle_reset := fun hs => congrArg
      (fun t => { t with inp := inp, later := later, rx := rx, outs := outs, crcReg := reg }) (h.idle_reset hs)
    frame_current := h.frame_current }

/-- The environment's next port levels keep the invariant. -/
theorem SessionInv.loadInputs {s : State} (h : SessionInv s) : SessionInv (loadInputs s) := by
  unfold Machine.loadInputs
  split
  · exact h
  · exact h.env _ _ _ _ _

/-- FAIL keeps the invariant (R213). -/
theorem SessionInv.failWith {s : State} (h : SessionInv s) {c : Cause} (hc : c ≠ .none) :
    SessionInv (failWith c s) :=
  .of_failed rfl h.legal h.attempt_le h.sent_le rfl hc

/-- An accepted write keeps the invariant: an attempt was left, and now a response is due (R165). -/
theorem SessionInv.sent {s : State} (h : SessionInv s) (ha : s.st.active = true) (hp : s.ph = .tx) :
    SessionInv
      { s with attempt := s.attempt + 1, txAny := true, ph := .rx, outs := s.outs ++ [.tx s.frame] } := by
  obtain ⟨-, -, -, hmax, -⟩ := legal_bounds h.legal
  have hlt := h.attempt_lt ha hp
  have hsucc := attempt_succ_toNat hlt hmax
  exact
  { h with
    attempt_le := hsucc ▸ hlt
    attempt_lt := fun _ => nofun
    written := fun _ _ => ⟨hsucc ▸ Nat.le_add_left .., rfl⟩
    idle_reset := fun hs => absurd hs (ne_idle_of_active ha)
    frame_current := h.frame_current }

/-- BEGIN starts a session of the invariant (R162). -/
theorem SessionInv.begun {s : State} (hl : s.params.legal = true) (bytes : List Byte)
    (hb : bytes.length ≤ 4294967295) :
    SessionInv
      { s with st := .starting, ph := .tx, attempt := 0, img := bytes,
               imgSize := BitVec.ofNat 32 bytes.length, imgCrc := crcCompute s.params.crc bytes,
               bytesSent := 0, chunkLen := 0,
               frame := buildFrame s.params.crc Config.typeCommand [Config.codeStart],
               cause := .none, txAny := false, own := true,
               crcReg := encodeCrcReg s.params .cmdStart,
               inp := { s.inp with beginReq := none } } where
  legal := hl
  attempt_le := Nat.zero_le _
  attempt_lt := fun _ _ => (legal_bounds hl).2.2.1
  written := fun _ => nofun
  own_active := rfl
  cause_failed := ⟨fun _ => nofun, fun _ => rfl⟩
  sent_le := Nat.zero_le _
  image := fun _ => ⟨imgSize_toNat hb, rfl⟩
  idle_reset := nofun
  frame_current := fun _ => ⟨.cmdStart, rfl, encode_eq_of_wf rfl⟩
  before_data := fun _ => ⟨rfl, rfl⟩
  chunk := nofun
  after_data := fun h => by rcases h with h | h <;> cases h

/-- ADVANCE to a next packet keeps the invariant, if the registers of that packet are right (R168). -/
theorem SessionInv.load {s : State} (h : SessionInv s) (ha : s.st.active = true) {st : SessionState}
    (hst : st.active = true) {frame : List Byte} {sent : U32} {len : U16} (rx : List RxEvent)
    (outs : List PortEvent) (reg : U32) (hsent : sent.toNat ≤ s.imgSize.toNat)
    (hframe : ∃ i, currentPacket { s with st := st, bytesSent := sent, chunkLen := len } = some i ∧
      encode s.params i = some frame)
    (hbefore : st = .starting ∨ st = .awaitHeaderAck → sent = 0 ∧ len = 0)
    (hchunk : st = .sendingData →
      len.toNat = min s.params.maxChunk (s.imgSize.toNat - sent.toNat) ∧ 1 ≤ len.toNat)
    (hafter : st = .awaitEndAck → sent = s.imgSize) :
    SessionInv
      { s with rx := rx, attempt := 0, ph := .tx, st := st, bytesSent := sent, chunkLen := len, frame := frame,
               crcReg := reg, outs := outs } where
  legal := h.legal
  attempt_le := Nat.zero_le _
  attempt_lt := fun _ _ => (legal_bounds h.legal).2.2.1
  written := fun _ => nofun
  own_active := by rw [show s.own = s.st.active from h.own_active, ha, hst]
  cause_failed := ⟨fun _ => ne_failed_of_active hst, fun _ => h.cause_failed.mpr (ne_failed_of_active ha)⟩
  sent_le := hsent
  image := fun _ => h.image ha
  idle_reset := fun hs => absurd hs (ne_idle_of_active hst)
  frame_current := fun _ => hframe
  before_data := hbefore
  chunk := hchunk
  after_data := fun hs => by
    rcases hs with hs | hs
    · exact hafter hs
    · rw [show st = .complete from hs] at hst; cases hst

/-- The acknowledged chunk lies inside the image, so the byte count does not wrap (R27, R28). -/
theorem SessionInv.sent_add {s : State} (h : SessionInv s) (hs : s.st = .sendingData) {sent : U32}
    (hsent : sent = s.bytesSent + s.chunkLen.setWidth 32) :
    sent.toNat = s.bytesSent.toNat + s.chunkLen.toNat ∧ sent.toNat ≤ s.imgSize.toNat := by
  obtain ⟨hlen, hpos⟩ := h.chunk hs
  have hsize := s.imgSize.isLt
  have hwidth : (s.chunkLen.setWidth 32).toNat = s.chunkLen.toNat := by
    rw [BitVec.toNat_setWidth]
    have := s.chunkLen.isLt
    omega
  have hadd : sent.toNat = s.bytesSent.toNat + s.chunkLen.toNat := by
    rw [hsent, BitVec.toNat_add, hwidth]
    omega
  exact ⟨hadd, by omega⟩

/-- The chunk that ADVANCE loads behind `sent` acknowledged bytes: it lies inside the image and has at least one
byte (R172, R173). -/
theorem SessionInv.next_chunk {s : State} (h : SessionInv s) (ha : s.st.active = true) {sent : U32}
    (hle : sent.toNat ≤ s.imgSize.toNat) (hne : sent ≠ s.imgSize) {n : Nat}
    (hn : n = min s.params.maxChunk (s.imgSize - sent).toNat) :
    sent.toNat + n ≤ s.img.length ∧ n = min s.params.maxChunk (s.imgSize.toNat - sent.toNat) ∧ 1 ≤ n ∧
      n ≤ s.params.maxChunk := by
  obtain ⟨hsize, -⟩ := h.image ha
  obtain ⟨hpos, -⟩ := legal_bounds h.legal
  have hlt : sent.toNat ≠ s.imgSize.toNat := fun heq => hne (BitVec.eq_of_toNat_eq heq)
  rw [toNat_sub_le hle] at hn
  omega

/-- ENCODE builds the Data frame of a chunk of at most MAX_CHUNK image bytes (41_packet_codec.md R126). -/
theorem encode_chunk {p : Params} {img : List Byte} {off n : Nat} (h : n ≤ p.maxChunk) :
    encode p (.data ((img.drop off).take n)) =
      some (buildFrame p.crc Config.typeData ((img.drop off).take n)) :=
  encode_eq_of_wf (decide_eq_true (Nat.le_trans (List.length_take_le ..) h))

/-- The packet of SENDING_DATA is the Data packet of the chunk in flight. -/
theorem currentPacket_chunk {s : State} {off n : Nat} (hs : s.st = .sendingData)
    (hoff : s.bytesSent.toNat = off) (hn : s.chunkLen.toNat = n) (hin : off + n ≤ s.img.length) :
    currentPacket s = some (.data ((s.img.drop off).take n)) := by
  rw [currentPacket, hs]
  simp only [hoff, hn, imgRead_inside hin, Option.map_some]

/-- An ACK keeps the invariant (R168). -/
theorem AckCase.keeps_inv {s u : State} {rest : List RxEvent} (hu : AckCase s rest u) (h : SessionInv s)
    (ha : s.st.active = true) : SessionInv u := by
  cases hu with
  | header hs =>
    exact h.load ha rfl _ _ _ h.sent_le ⟨.header s.imgSize s.imgCrc 0 0, rfl, encode_eq_of_wf rfl⟩
      (fun _ => h.before_data (.inl hs)) nofun nofun
  | noImage hs h0 =>
    obtain ⟨hsent, -⟩ := h.before_data (.inr hs)
    exact h.load ha rfl _ _ _ h.sent_le ⟨.cmdEnd, rfl, encode_eq_of_wf rfl⟩ (by simp) nofun
      (fun _ => by rw [hsent, h0])
  | firstChunk hs h0 n hn hi =>
    obtain ⟨hsent, -⟩ := h.before_data (.inr hs)
    have hzero : s.bytesSent.toNat = 0 := by rw [hsent]; rfl
    obtain ⟨hin, hmin, hpos, hmax⟩ := h.next_chunk ha h.sent_le (by rw [hsent]; exact h0.symm)
      (n := n) (by rw [hn, hsent]; simp)
    have hlen := chunkLen_toNat h.legal hmax
    refine h.load ha rfl _ _ _ h.sent_le ⟨_, ?packet, encode_chunk (off := 0) hmax⟩ (by simp)
      (fun _ => ⟨hlen.trans hmin, hpos.trans_eq hlen.symm⟩) nofun
    case packet => exact currentPacket_chunk rfl hzero hlen (by rw [Nat.zero_add]; exact hi)
  | lastChunk hs sent hb h0 =>
    obtain ⟨-, hle⟩ := h.sent_add hs hb
    exact h.load ha rfl _ _ _ hle ⟨.cmdEnd, rfl, encode_eq_of_wf rfl⟩ (by simp) nofun (fun _ => h0)
  | nextChunk hs sent hb h0 n hn hi =>
    obtain ⟨-, hle⟩ := h.sent_add hs hb
    obtain ⟨hin, hmin, hpos, hmax⟩ := h.next_chunk ha hle h0 hn
    have hlen := chunkLen_toNat h.legal hmax
    refine h.load ha rfl _ _ _ hle ⟨_, ?packet, encode_chunk hmax⟩ (by simp)
      (fun _ => ⟨hlen.trans hmin, hpos.trans_eq hlen.symm⟩) nofun
    case packet => exact currentPacket_chunk rfl rfl hlen hin
  | complete hs =>
    exact
    { legal := h.legal
      attempt_le := Nat.zero_le _
      attempt_lt := nofun
      written := nofun
      own_active := rfl
      cause_failed := ⟨fun _ => nofun, fun _ => h.cause_failed.mpr (ne_failed_of_active ha)⟩
      sent_le := h.sent_le
      image := nofun
      idle_reset := nofun
      frame_current := nofun
      before_data := fun h => by rcases h with h | h <;> cases h
      chunk := nofun
      after_data := fun _ => h.after_data (.inl hs) }

/-- Every case of a step keeps the invariant. -/
theorem StepCase.keeps_inv {s u : State} (hu : StepCase s u) (h : SessionInv s) : SessionInv u := by
  cases hu with
  | reset => exact .of_reset h.legal
  | noStep | waits => exact h
  | cancelIdle => exact h.failWith nofun
  | cancelSilent =>
    rw [failWith_close]
    exact .of_failed rfl h.legal h.attempt_le h.sent_le rfl nofun
  | cancelSent _ _ _ _ u hu =>
    rw [failWith_close, hu]
    exact .of_failed rfl h.legal h.attempt_le h.sent_le rfl nofun
  | beginFail => exact .of_failed rfl h.legal h.attempt_le h.sent_le rfl nofun
  | beginOk _ _ _ bytes _ hb => exact .begun h.legal bytes hb
  | sent _ _ ha hp => exact h.sent ha hp
  | sendFailed _ _ ha hp => exact .of_failed rfl h.legal (h.sent ha hp).attempt_le h.sent_le rfl nofun
  | readFailed => exact .of_failed rfl h.legal h.attempt_le h.sent_le rfl nofun
  | retry _ _ ha _ _ _ _ _ hat =>
    exact
    { h with
      attempt_lt := fun _ _ => hat
      written := fun _ => nofun
      idle_reset := fun hs => absurd hs (ne_idle_of_active ha)
      frame_current := h.frame_current }
  | exhausted _ _ _ _ _ _ _ ho => exact .of_failed rfl h.legal h.attempt_le h.sent_le rfl ho.cause
  | acked _ _ ha _ _ _ _ hu => exact hu.keeps_inv h ha

/-- Settles O42. -/
theorem stepKeepsSessionInvariant : Obligations.StepKeepsSessionInvariant := by
  intro s t h hstep
  obtain ⟨-, u, rfl, hu⟩ := step_cases hstep
  exact (hu.keeps_inv h).loadInputs

/-! ### No step stops -/

theorem loadFrame_continues (i : Instr) (st : SessionState) {s : State} (h : i.wf s.params = true) :
    Continues (loadFrame i st s) :=
  ⟨_, loadFrame_next i st s h⟩

theorem loadChunk_continues {off n : Nat} {s : State} (h : off + n ≤ s.img.length)
    (hn : n ≤ s.params.maxChunk) : Continues (loadChunk off n s) :=
  ⟨_, loadChunk_next off n s h hn⟩

/-- In a session no image read of ADVANCE goes beyond the image (20_memory.md R52). -/
theorem SessionInv.advance_continues {s : State} (h : SessionInv s) (ha : s.st.active = true) :
    Continues (advance s) := by
  cases hs : s.st with
  | starting =>
    rw [advance_starting hs]
    exact loadFrame_continues _ _ rfl
  | awaitHeaderAck =>
    rw [advance_awaitHeaderAck hs, advanceHeader]
    split
    · exact loadFrame_continues _ _ rfl
    · obtain ⟨hsize, -⟩ := h.image ha
      refine loadChunk_continues ?_ (Nat.min_le_left ..)
      simp only
      omega
  | sendingData =>
    rw [advance_sendingData hs, advanceData]
    obtain ⟨-, hle⟩ := h.sent_add hs rfl
    simp only
    split
    · exact loadFrame_continues _ _ rfl
    case isFalse hne =>
      obtain ⟨hin, -, -, hmax⟩ := h.next_chunk ha hle hne rfl
      exact loadChunk_continues hin hmax
  | awaitEndAck =>
    rw [advance_awaitEndAck hs]
    exact ⟨_, rfl⟩
  | idle | complete | failed => rw [hs] at ha; cases ha

/-- RX in a session is a next state, whatever the transport answers (R166). -/
theorem SessionInv.receiveStep_continues {s : State} (h : SessionInv s) (ha : s.st.active = true) :
    Continues (receiveStep s) := by
  unfold receiveStep
  split
  · exact ⟨_, rfl⟩
  · exact ⟨_, rfl⟩
  · exact ⟨_, rfl⟩
  · unfold receive
    simp only
    split
    · exact (h.env s.inp s.later _ s.outs _).advance_continues ha
    · exact ⟨_, rfl⟩

/-- A next state of the selected step is one of the step. -/
theorem Continues.mapNext {f : State → State} {o : StepOutcome} (h : Continues o) :
    Continues (mapNext f o) := by
  obtain ⟨t, rfl⟩ := h
  exact ⟨_, rfl⟩

/-- BEGIN always answers a next state (R162, R163). -/
theorem beginSession_continues (src : Source) (s : State) : Continues (beginSession src s) := by
  cases src with
  | unreadable => exact ⟨_, beginSession_fail (.inl rfl)⟩
  | image bytes =>
    rcases Nat.lt_or_ge 4294967295 bytes.length with hbig | hfits
    · exact ⟨_, beginSession_fail (.inr ⟨bytes, rfl, hbig⟩)⟩
    · exact ⟨_, begin_ok s bytes hfits⟩

/-- CANCEL always answers a next state (R177). -/
theorem cancelSession_continues (s : State) : Continues (cancelSession s) := by
  by_cases hs : s.st = .idle
  · exact ⟨_, by rw [cancelSession, if_pos hs]⟩
  · cases hx : s.txAny with
    | false => exact ⟨_, cancelSession_silent hs hx⟩
    | true => exact ⟨_, cancelSession_sent hs hx rfl⟩

/-- Settles O43: the selected step is RESET, none, CANCEL, BEGIN or the exchange, in the priority of R160. -/
theorem soundSessionNeverStops : Obligations.SoundSessionNeverStops := by
  intro s h
  rw [step_eq h.legal]
  apply Continues.mapNext
  cases hr : s.inp.reset with
  | true => exact ⟨_, stepSelected_reset hr⟩
  | false =>
    cases ht : s.st.terminal with
    | true => exact ⟨_, stepSelected_terminal hr ht⟩
    | false =>
      cases hc : s.inp.cancel with
      | true =>
        rw [stepSelected_cancel hr ht hc, exec_cmdCancel h.legal hc ht]
        exact cancelSession_continues s
      | false =>
        by_cases hs : s.st = .idle
        · cases hb : s.inp.beginReq with
          | none => exact ⟨_, stepSelected_idle ⟨hr, hc⟩ hs hb⟩
          | some src =>
            rw [stepSelected_begin ⟨hr, hc⟩ hs hb]
            exact beginSession_continues src _
        · have ha := active_of s ht hs
          rw [stepSelected_exchange s h.legal ha hr hc, exchangeRaw]
          cases s.ph with
          | tx => exact ⟨_, rfl⟩
          | rx => exact h.receiveStep_continues ha

end Sys2Proof.Machine
end

section
/-! The bound on a session's steps (42_transfer_session.md R180): BEGIN sets it, an ACK takes one packet off it,
every TX step and every answered RX step lowers it, and so a session that is left alone ends within it. -/

namespace Sys2Proof.Machine

/-! ### Packets left -/

theorem ceilDiv_zero {c : Nat} (hc : 1 ≤ c) : ceilDiv 0 c = 0 :=
  Nat.div_eq_of_lt (by omega)

/-- One chunk of what is left, or all of it, takes one off the chunks left (R175). -/
theorem ceilDiv_sub_min {n c : Nat} (hn : 1 ≤ n) (hc : 1 ≤ c) :
    ceilDiv (n - min c n) c + 1 = ceilDiv n c := by
  rcases Nat.le_total n c with h | h
  · rw [Nat.min_eq_right h, Nat.sub_self, ceilDiv_zero hc, ceilDiv]
    exact (Nat.div_eq_of_lt_le (by omega) (by omega)).symm
  · rw [Nat.min_eq_left h, ceilDiv, ceilDiv, ← Nat.add_div_right _ hc]
    congr 1
    omega

/-- The chunks left after the chunk in flight (R173). -/
theorem SessionInv.chunks_after {s : State} (h : SessionInv s) (hs : s.st = .sendingData) {sent : U32}
    (hb : sent = s.bytesSent + s.chunkLen.setWidth 32) :
    ceilDiv (s.imgSize.toNat - sent.toNat) s.params.maxChunk + 1 =
      ceilDiv (s.imgSize.toNat - s.bytesSent.toNat) s.params.maxChunk := by
  obtain ⟨hadd, -⟩ := h.sent_add hs hb
  obtain ⟨hlen, hpos⟩ := h.chunk hs
  obtain ⟨hc, -⟩ := legal_bounds h.legal
  rw [hadd, hlen, ← Nat.sub_sub]
  exact ceilDiv_sub_min (by omega) hc

/-- An ACK takes exactly one packet off those left (R168, R180). -/
theorem AckCase.packetsLeft_succ {s u : State} {rest : List RxEvent} (hu : AckCase s rest u)
    (h : SessionInv s) : packetsLeft u + 1 = packetsLeft s := by
  obtain ⟨hc, -⟩ := legal_bounds h.legal
  cases hu with
  | header hs => simp only [packetsLeft, hs]; omega
  | noImage hs h0 =>
    obtain ⟨hsent, -⟩ := h.before_data (.inr hs)
    have hnone : ceilDiv (s.imgSize.toNat - s.bytesSent.toNat) s.params.maxChunk = 0 := by
      rw [h0, hsent]; exact ceilDiv_zero hc
    simp only [packetsLeft, hs, hnone]
  | firstChunk hs => simp only [packetsLeft, hs]; omega
  | lastChunk hs sent hb h0 =>
    have hafter := h.chunks_after hs hb
    rw [h0, Nat.sub_self, ceilDiv_zero hc] at hafter
    simp only [packetsLeft, hs, ← hafter]
  | nextChunk hs sent hb =>
    have hafter := h.chunks_after hs hb
    simp only [packetsLeft, hs, ← hafter]
    omega
  | complete hs => simp only [packetsLeft, hs]

/-! ### Steps left -/

/-- The steps that what is left of a packet's attempts can take. -/
theorem stepsLeft_tx {s : State} (ha : s.st.active = true) (hp : s.ph = .tx) :
    stepsLeft s = (packetsLeft s - 1) * (2 * s.params.maxAttempts) +
      2 * (s.params.maxAttempts - s.attempt.toNat) := by
  simp only [stepsLeft, ha, hp, if_true, Nat.add_zero]

theorem stepsLeft_rx {s : State} (ha : s.st.active = true) (hp : s.ph = .rx) :
    stepsLeft s = (packetsLeft s - 1) * (2 * s.params.maxAttempts) +
      2 * (s.params.maxAttempts - s.attempt.toNat) + 1 := by
  simp only [stepsLeft, ha, hp, if_true, Nat.add_assoc]

theorem stepsLeft_inactive {s : State} (h : s.st.active = false) : stepsLeft s = 0 := by
  simp [stepsLeft, h]

@[simp] theorem packetsLeft_loadInputs (s : State) : packetsLeft (loadInputs s) = packetsLeft s := by
  simp [packetsLeft]

@[simp] theorem stepsLeft_loadInputs (s : State) : stepsLeft (loadInputs s) = stepsLeft s := by
  simp [stepsLeft]

/-- A running session has a step left. -/
theorem SessionInv.stepsLeft_pos {s : State} (h : SessionInv s) (ha : s.st.active = true) :
    0 < stepsLeft s := by
  cases hp : s.ph with
  | tx => have := h.attempt_lt ha hp; rw [stepsLeft_tx ha hp]; omega
  | rx => rw [stepsLeft_rx ha hp]; omega

/-- An ACK brings the session to the attempts of the packets after the current one. -/
theorem AckCase.stepsLeft_lt {s u : State} {rest : List RxEvent} (hu : AckCase s rest u) (h : SessionInv s)
    (ha : s.st.active = true) (hp : s.ph = .rx) : stepsLeft u < stepsLeft s := by
  have hleft := hu.packetsLeft_succ h
  obtain ⟨hattempt, hph⟩ := hu.fresh
  obtain ⟨hparams, -⟩ := hu.keeps
  rcases Bool.eq_false_or_eq_true u.st.active with hua | hua
  · have hpos : 1 ≤ packetsLeft u := by
      revert hua
      rw [packetsLeft]
      cases u.st <;> simp [SessionState.active] <;> omega
    have hmul : packetsLeft u * (2 * s.params.maxAttempts) =
        (packetsLeft u - 1) * (2 * s.params.maxAttempts) + 2 * s.params.maxAttempts := by
      rw [← Nat.succ_mul, Nat.succ_eq_add_one, Nat.sub_add_cancel hpos]
    rw [stepsLeft_tx hua hph, stepsLeft_rx ha hp, hattempt, hparams, ← hleft, Nat.add_sub_cancel, hmul]
    simp only [BitVec.ofNat_eq_ofNat, BitVec.toNat_ofNat, Nat.zero_mod, Nat.sub_zero]
    omega
  · rw [stepsLeft_inactive hua]
    exact h.stepsLeft_pos ha

/-- In a session that is left alone every step but a waiting one lowers the bound. -/
theorem StepCase.stepsLeft_lt {s u : State} (hu : StepCase s u) (h : SessionInv s) (hd : Undisturbed s)
    (ha : s.st.active = true) (hans : Answered s) : stepsLeft u < stepsLeft s := by
  obtain ⟨hr, hc⟩ := hd
  have hpos := h.stepsLeft_pos ha
  cases hu with
  | reset hreset => rw [hr] at hreset; cases hreset
  | noStep _ hna => rw [ha] at hna; cases hna
  | cancelIdle _ hcancel | cancelSilent _ hcancel | cancelSent _ hcancel => rw [hc] at hcancel; cases hcancel
  | beginFail _ _ hs | beginOk _ _ hs => rw [hs] at ha; cases ha
  | sendFailed | readFailed | exhausted => exact hpos
  | waits _ _ _ hp hw => exact absurd hw (hans hp)
  | sent _ _ _ hp =>
    have hlt := h.attempt_lt ha hp
    obtain ⟨-, -, -, hmax, -⟩ := legal_bounds h.legal
    rw [stepsLeft_rx (by exact ha) rfl, stepsLeft_tx ha hp, attempt_succ_toNat hlt hmax]
    simp only [packetsLeft]
    omega
  | retry _ _ _ hp =>
    rw [stepsLeft_tx (by exact ha) rfl, stepsLeft_rx ha hp]
    exact Nat.lt_succ_self _
  | acked _ _ _ hp _ _ _ hack => exact hack.stepsLeft_lt h ha hp

/-- Settles O44. -/
theorem stepsLeftDecrease : Obligations.StepsLeftDecrease := by
  intro s h hd ha hans
  obtain ⟨t, hstep⟩ := soundSessionNeverStops s h
  obtain ⟨-, u, rfl, hu⟩ := step_cases hstep
  exact ⟨_, hstep, by rw [stepsLeft_loadInputs]; exact hu.stepsLeft_lt h hd ha hans⟩

/-- Settles O45: in STARTING all packets and all attempts are left. -/
theorem beginSetsTheBound : Obligations.BeginSetsTheBound := by
  intro s bytes h hd hs hb hsize
  refine ⟨_, beginStartsSession s bytes h.legal hd hs hb hsize, loadInputs_st _, ?_⟩
  have hchunks : ceilDiv ((BitVec.ofNat 32 bytes.length : U32).toNat - (0 : U32).toNat) s.params.maxChunk =
      ceilDiv bytes.length s.params.maxChunk := by rw [imgSize_toNat hsize]; rfl
  have hattempts : s.params.maxAttempts - (0 : Byte).toNat = s.params.maxAttempts := rfl
  rw [stepsLeft_loadInputs, stepsLeft_tx rfl rfl]
  simp only [packetsLeft, hchunks, hattempts]
  generalize ceilDiv bytes.length s.params.maxChunk = chunks
  rw [show 3 + chunks - 1 = 2 + chunks by omega]
  ring

/-! ### Runs end -/

/-- A run whose first step is known. -/
theorem run_step {s t : State} (k : Nat) (h : step s = .next t) :
    Host.Core.run Sys2Proof.core (k + 1) s = Host.Core.run Sys2Proof.core k t :=
  run_next (M := Sys2Proof.core) k h

/-- An ACK leaves the port levels, and of the receive stream what the read left. -/
theorem AckCase.env {s u : State} {rest : List RxEvent} (h : AckCase s rest u) :
    u.inp = s.inp ∧ u.later = s.later ∧ u.rx = rest := by
  cases h <;> exact ⟨rfl, rfl, rfl⟩

/-- An ACK leads to one of states 1 to 4, or to COMPLETE. -/
theorem AckCase.active_or_terminal {s u : State} {rest : List RxEvent} (h : AckCase s rest u) :
    u.st.active = true ∨ u.st.terminal = true := by
  cases h with
  | header | noImage | firstChunk | lastChunk | nextChunk => exact .inl rfl
  | complete => exact .inr rfl

/-- A response read of a stream of bytes takes ten of them. -/
theorem rx_take_drop {s : State} {bytes : List Byte} (hrx : s.rx = bytes.map RxEvent.byte)
    (hlen : 10 ≤ bytes.length) :
    rxReadExact Config.rspFrameLen s.rx = .bytes (bytes.take 10) ((bytes.drop 10).map RxEvent.byte) := by
  rw [rxReadExact_eq_bytes_iff, ← List.map_append, List.take_append_drop, List.length_take]
  exact ⟨Nat.min_eq_left hlen, hrx⟩

/-- In a session that is left alone, with bytes to read, a step ends the session or goes on with at most ten
bytes fewer. -/
theorem StepCase.ends_or_goes_on {s u : State} (hu : StepCase s u) (hd : Undisturbed s)
    (ha : s.st.active = true) {bytes : List Byte} (hrx : s.rx = bytes.map RxEvent.byte)
    (hlen : 10 ≤ bytes.length) :
    u.st.terminal = true ∨
      u.st.active = true ∧ u.inp = s.inp ∧ u.later = s.later ∧
        ∃ m, m ≤ 10 ∧ u.rx = (bytes.drop m).map RxEvent.byte := by
  obtain ⟨hr, hc⟩ := hd
  have hread := rx_take_drop hrx hlen
  cases hu with
  | reset hreset => rw [hr] at hreset; cases hreset
  | noStep _ hna => rw [ha] at hna; cases hna
  | cancelIdle _ hcancel | cancelSilent _ hcancel | cancelSent _ hcancel => rw [hc] at hcancel; cases hcancel
  | beginFail _ _ hs | beginOk _ _ hs => rw [hs] at ha; cases ha
  | sendFailed | readFailed | exhausted => exact .inl rfl
  | sent | waits => exact .inr ⟨ha, rfl, rfl, 0, Nat.zero_le _, hrx⟩
  | retry _ _ _ _ o rest reg ho =>
    refine .inr ⟨ha, rfl, rfl, 10, Nat.le_refl _, ?_⟩
    cases ho with
    | timeout _ h => rw [hread] at h; cases h
    | bytes _ _ h => rw [hread] at h; cases h; rfl
  | acked _ _ _ _ rest hx _ hack =>
    obtain ⟨hinp, hlater, hrest⟩ := hack.env
    have hten : (ackFrame s.params).length = Config.rspFrameLen := buildFrame_length ..
    have hack' := rxReadExact_eq_bytes_iff.mpr ⟨hten, hx⟩
    rw [hread] at hack'
    obtain ⟨-, rfl⟩ := ReadAnswer.bytes.inj hack'
    rcases hack.active_or_terminal with hact | hterm
    · exact .inr ⟨hact, hinp, hlater, 10, Nat.le_refl _, hrest⟩
    · exact .inl hterm

/-- Settles O46, by induction on the bound: a step that does not end the session lowers it, and uses no more
than its share of the bytes. -/
theorem sessionEndsWithinTheBound : Obligations.SessionEndsWithinTheBound := by
  intro s bytes h hd hlater ha hrx hbytes
  induction hn : stepsLeft s using Nat.strong_induction_on generalizing s bytes with
  | _ n ih =>
    subst hn
    have hpos := h.stepsLeft_pos ha
    have hans : Answered s := fun _ => by rw [rx_take_drop hrx (by omega)]; nofun
    obtain ⟨t, hstep, hlt⟩ := stepsLeftDecrease s h hd ha hans
    have ht := stepKeepsSessionInvariant s t h hstep
    obtain ⟨-, u, rfl, hu⟩ := step_cases hstep
    rcases hu.ends_or_goes_on hd ha hrx (by omega) with hterm | ⟨hact, hinp, hlat, m, hm, hrest⟩
    · exact ⟨1, _, hpos, run_step 0 hstep, by rw [loadInputs_st]; exact hterm⟩
    · rw [loadInputs_of_later_nil u (hlat.trans hlater)] at hstep hlt ht
      obtain ⟨k, t, hk, hrun, hterm⟩ := ih _ hlt u (bytes.drop m) ht (by rw [Undisturbed, hinp]; exact hd)
        (hlat.trans hlater) hact hrest (by rw [List.length_drop]; omega) rfl
      exact ⟨k + 1, t, by omega, by rw [run_step k hstep]; exact hrun, hterm⟩

end Sys2Proof.Machine
end

section
/-! The chunks of an image (42_transfer_session.md R175). -/

namespace Sys2Proof.Machine

/-- The first `m` chunks joined are the first `m` chunk lengths of the image. -/
theorem flatMap_imageChunk (c : Nat) (img : List Byte) (m : Nat) :
    (List.range m).flatMap (imageChunk c img) = img.take (m * c) := by
  induction m with
  | zero => simp
  | succ m ih =>
    rw [List.range_succ, List.flatMap_append, ih, List.flatMap_singleton, imageChunk, Nat.succ_mul,
      List.take_add]

theorem imageChunk_length (c : Nat) (img : List Byte) (k : Nat) :
    (imageChunk c img k).length = min c (img.length - k * c) := by
  rw [imageChunk, List.length_take, List.length_drop]

/-- There is a chunk `k` exactly if the image has a byte at its offset. -/
theorem lt_ceilDiv_iff {n c k : Nat} (hc : 1 ≤ c) : k < ceilDiv n c ↔ k * c < n := by
  rw [ceilDiv, Nat.lt_iff_add_one_le, Nat.le_div_iff_mul_le hc, Nat.succ_mul]
  omega

/-- The chunks cover the image. -/
theorem le_ceilDiv_mul (n : Nat) {c : Nat} (hc : 1 ≤ c) : n ≤ ceilDiv n c * c :=
  Nat.not_lt.mp fun h => Nat.lt_irrefl _ ((lt_ceilDiv_iff hc).mpr h)

/-- The image ends with its last chunk. -/
theorem le_end_of_last_chunk {n c k : Nat} (hc : 1 ≤ c) (hk : k + 1 = ceilDiv n c) : n ≤ k * c + c := by
  have hcover := le_ceilDiv_mul n hc
  rwa [← hk, Nat.succ_mul] at hcover

/-- The length of the last chunk, which begins at `k · c`: the image's length modulo `c`, or a whole chunk. -/
theorem last_chunk_length {n c k : Nat} (hc : 1 ≤ c) (hk : k + 1 = ceilDiv n c) :
    n - k * c = if n % c = 0 then c else n - c * (n / c) := by
  have hlo : k * c < n := (lt_ceilDiv_iff hc).mp (by omega)
  have hhi := le_end_of_last_chunk hc hk
  split
  case isTrue hmod =>
    obtain ⟨q, rfl⟩ := Nat.dvd_of_mod_eq_zero hmod
    have hq : q = k + 1 := by
      rw [Nat.mul_comm k c] at hlo hhi
      have hlt : k < q := Nat.lt_of_mul_lt_mul_left hlo
      have hle : q ≤ k + 1 := Nat.le_of_mul_le_mul_left hhi hc
      omega
    rw [hq, Nat.mul_succ, Nat.mul_comm, Nat.add_sub_cancel_left]
  case isFalse hmod =>
    have hne : n ≠ k * c + c := fun h => hmod (by rw [h, ← Nat.succ_mul, Nat.mul_mod_left])
    have hdiv : n / c = k := Nat.div_eq_of_lt_le hlo.le (by rw [Nat.succ_mul]; omega)
    rw [hdiv, Nat.mul_comm]

/-- Settles O55. -/
theorem chunksCoverTheImage : Obligations.ChunksCoverTheImage := by
  intro c img hc
  refine ⟨?cover, fun k hk => ?full, fun k hk => ?last⟩
  case cover => rw [flatMap_imageChunk, List.take_of_length_le (le_ceilDiv_mul _ hc)]
  case full =>
    have hbehind := (lt_ceilDiv_iff hc).mp hk
    rw [Nat.succ_mul] at hbehind
    rw [imageChunk_length, Nat.min_eq_left (by omega)]
  case last =>
    have hhi := le_end_of_last_chunk hc hk
    rw [imageChunk_length, Nat.min_eq_right (by omega), last_chunk_length hc hk]

end Sys2Proof.Machine
end

section
/-! Runs of a session that is left alone (42_transfer_session.md R183, R184): the two steps that exchange the
current packet with its NACK or its ACK, and the runs put together from them. -/

namespace Sys2Proof.Machine

/-! ### Two steps of a run -/

/-- The environment leaves the session alone: no reset, no cancel, every write accepted, no other port levels to
come. -/
structure LeftAlone (s : State) : Prop where
  undisturbed : Undisturbed s
  later : s.later = []
  writes : s.inp.txStatus = .ok

/-- It goes on as long as the port levels are the same. -/
theorem LeftAlone.of_same {s u : State} (h : LeftAlone s) (hinp : u.inp = s.inp) (hlater : u.later = s.later) :
    LeftAlone u where
  undisturbed := by rw [Undisturbed, hinp]; exact h.undisturbed
  later := hlater.trans h.later
  writes := by rw [hinp]; exact h.writes

/-- A run that answers a next state has a first step that does. -/
theorem run_succ_inv {M : Host.Core} {s t : M.State} {k : Nat} (h : M.run (k + 1) s = .next t) :
    ∃ u, M.step s = .next u ∧ M.run k u = .next t := by
  unfold Host.Core.run at h
  split at h
  next u hstep => exact ⟨u, hstep, h⟩
  · cases h
  · cases h

/-- A step, then a run. -/
theorem run_cons {s t u : State} {k : Nat} (h : step s = .next t)
    (hrun : Host.Core.run Sys2Proof.core k t = .next u) : Host.Core.run Sys2Proof.core (k + 1) s = .next u := by
  rw [run_step k h, hrun]

/-- A run, then a run. -/
theorem run_trans {s t u : State} {m n : Nat} (h : Host.Core.run Sys2Proof.core m s = .next t)
    (hrun : Host.Core.run Sys2Proof.core n t = .next u) :
    Host.Core.run Sys2Proof.core (m + n) s = .next u := by
  induction m generalizing s with
  | zero =>
    cases h
    rw [Nat.zero_add, hrun]
  | succ m ih =>
    obtain ⟨v, hstep, hrest⟩ := run_succ_inv (M := Sys2Proof.core) h
    rw [Nat.succ_add]
    exact run_cons hstep (ih hrest)

/-- The invariant holds along a run. -/
theorem SessionInv.run {s t : State} (h : SessionInv s) (k : Nat)
    (hrun : Host.Core.run Sys2Proof.core k s = .next t) : SessionInv t := by
  induction k generalizing s with
  | zero => cases hrun; exact h
  | succ k ih =>
    obtain ⟨u, hstep, hrest⟩ := run_succ_inv (M := Sys2Proof.core) hrun
    exact ih (stepKeepsSessionInvariant s u h hstep) hrest

/-- `s` with its frame written, the response due (R165). -/
def awaiting (s : State) : State :=
  { s with attempt := s.attempt + 1, txAny := true, ph := .rx, outs := s.outs ++ [.tx s.frame] }

/-- TX of a session left alone. -/
theorem step_awaiting {s : State} (hl : s.params.legal = true) (hal : LeftAlone s) (ha : s.st.active = true)
    (hp : s.ph = .tx) : step s = .next (awaiting s) := by
  rw [step_tx hl hal.undisturbed ha hp, sendFrame_ok _ _ hal.writes,
    loadInputs_of_later_nil _ (by exact hal.later), awaiting]

/-- A NACK received goes to RETRY_OR_FAIL (R166, R169). -/
theorem step_nack {s : State} {rest : List RxEvent} (hl : s.params.legal = true) (hd : Undisturbed s)
    (ha : s.st.active = true) (hp : s.ph = .rx)
    (hrx : s.rx = (nackFrame s.params).map RxEvent.byte ++ rest) :
    ∃ reg, step s = .next (loadInputs (retryOrFail .nack reg { s with rx := rest })) := by
  have hcl : classify s.params.crc (nackFrame s.params) = .nack := classify_nackFrame s.params
  have hreceive := receive_not_ack (nackFrame s.params) { s with rx := rest } (by simp only [hcl]; nofun)
  simp only [hcl] at hreceive
  exact ⟨_, by rw [step_rx hl hd ha hp, receiveStep_bytes _ rest s rfl hrx, hreceive, mapNext]⟩

/-- An ACK received goes to ADVANCE (R166, R168). -/
theorem step_ack {s : State} {rest : List RxEvent} (hl : s.params.legal = true) (hd : Undisturbed s)
    (ha : s.st.active = true) (hp : s.ph = .rx)
    (hrx : s.rx = (ackFrame s.params).map RxEvent.byte ++ rest) :
    step s = mapNext loadInputs (advance { s with rx := rest, crcReg := encodeCrcReg s.params .rspAck }) := by
  rw [step_rx hl hd ha hp, receiveStep_bytes _ rest s rfl hrx]
  exact congrArg (mapNext loadInputs) (receive_ack { s with rx := rest })

/-- The current packet written and its NACK received. -/
theorem run_nack {s : State} {rest : List RxEvent} (hl : s.params.legal = true) (hal : LeftAlone s)
    (ha : s.st.active = true) (hp : s.ph = .tx)
    (hrx : s.rx = (nackFrame s.params).map RxEvent.byte ++ rest) :
    ∃ reg, Host.Core.run Sys2Proof.core 2 s =
      .next (loadInputs (retryOrFail .nack reg { awaiting s with rx := rest })) := by
  obtain ⟨reg, hstep⟩ := step_nack (s := awaiting s) hl hal.undisturbed ha rfl hrx
  exact ⟨reg, run_cons (step_awaiting hl hal ha hp) (run_cons hstep rfl)⟩

/-- The current packet written and its ACK received. -/
theorem run_ack {s : State} {rest : List RxEvent} (h : SessionInv s) (hal : LeftAlone s)
    (ha : s.st.active = true) (hp : s.ph = .tx) (hrx : s.rx = (ackFrame s.params).map RxEvent.byte ++ rest) :
    ∃ u, Host.Core.run Sys2Proof.core 2 s = .next u ∧ AckCase (awaiting s) rest u ∧ SessionInv u ∧
      LeftAlone u := by
  have hwait : SessionInv (awaiting s) := h.sent ha hp
  obtain ⟨u, hu⟩ := (hwait.env s.inp s.later rest (awaiting s).outs
    (encodeCrcReg s.params .rspAck)).advance_continues ha
  have hack : AckCase (awaiting s) rest u := ack_cases ha hu
  obtain ⟨hinp, hlater, -⟩ := hack.env
  have hua : LeftAlone u := hal.of_same hinp hlater
  have hstep : step (awaiting s) = .next u := by
    rw [step_ack (s := awaiting s) h.legal hal.undisturbed ha rfl hrx]
    refine (congrArg (mapNext loadInputs) hu).trans ?_
    rw [mapNext, loadInputs_of_later_nil u hua.later]
  exact ⟨u, run_cons (step_awaiting h.legal hal ha hp) (run_cons hstep rfl), hack, hack.keeps_inv hwait ha,
    hua⟩

/-! ### NACKs -/

theorem rxFrames_zero (f : List Byte) : rxFrames 0 f = [] := rfl

theorem rxFrames_succ (n : Nat) (f : List Byte) : rxFrames (n + 1) f = f.map RxEvent.byte ++ rxFrames n f := by
  rw [rxFrames, List.replicate_succ, List.flatten_cons, rxFrames]

theorem rxFrames_succ_last (n : Nat) (f : List Byte) :
    rxFrames (n + 1) f = rxFrames n f ++ f.map RxEvent.byte := by
  simp [rxFrames, List.replicate_succ']

/-- After `k` NACKs, with an attempt left, the same frame is about to be written again: the attempts are
counted, the frame has been written `k` times, and beside that only `tx_any` and `crc_reg` have changed
(R169). -/
theorem run_nacks {s : State} {rest : List RxEvent} (k : Nat) (hl : s.params.legal = true) (hal : LeftAlone s)
    (ha : s.st.active = true) (hp : s.ph = .tx) (hk : s.attempt.toNat + k < s.params.maxAttempts)
    (hrx : s.rx = rxFrames k (nackFrame s.params) ++ rest) :
    ∃ a x reg, Host.Core.run Sys2Proof.core (2 * k) s = .next
      { s with attempt := a, txAny := x, crcReg := reg, rx := rest,
               outs := s.outs ++ List.replicate k (.tx s.frame) } ∧ a.toNat = s.attempt.toNat + k := by
  induction k generalizing s with
  | zero =>
    rw [rxFrames_zero, List.nil_append] at hrx
    subst hrx
    refine ⟨s.attempt, s.txAny, s.crcReg, ?_, rfl⟩
    rw [List.replicate_zero, List.append_nil]
    rfl
  | succ k ih =>
    rw [rxFrames_succ, List.append_assoc] at hrx
    obtain ⟨-, -, -, hmax, -⟩ := legal_bounds hl
    have hsucc : (s.attempt + 1).toNat = s.attempt.toNat + 1 := attempt_succ_toNat (by omega) hmax
    obtain ⟨reg, hrun⟩ := run_nack hl hal ha hp hrx
    rw [retryOrFail_lt _ _ _ (show (s.attempt + 1).toNat < s.params.maxAttempts by omega),
      loadInputs_of_later_nil _ (by exact hal.later)] at hrun
    obtain ⟨a, x, reg', hruns, hattempt⟩ := ih
      (s := { awaiting s with rx := rxFrames k (nackFrame s.params) ++ rest, ph := .tx, crcReg := reg })
      hl (hal.of_same rfl rfl) ha rfl (by show (s.attempt + 1).toNat + k < s.params.maxAttempts; omega) rfl
    refine ⟨a, x, reg', ?_, by rw [hattempt]; show (s.attempt + 1).toNat + k = _; omega⟩
    have hall := run_trans hrun hruns
    rw [show 2 + 2 * k = 2 * (k + 1) by omega] at hall
    rw [hall, List.replicate_succ, ← hp]
    simp [awaiting]

/-- NACKs for all attempts that are left fail the session, after as many writes of the frame (R169, R170). -/
theorem run_nacks_exhausted {s : State} {rest : List RxEvent} (n : Nat) (hl : s.params.legal = true)
    (hal : LeftAlone s) (ha : s.st.active = true) (hp : s.ph = .tx)
    (hn : s.params.maxAttempts = s.attempt.toNat + n + 1)
    (hrx : s.rx = rxFrames (n + 1) (nackFrame s.params) ++ rest) :
    ∃ a x reg, Host.Core.run Sys2Proof.core (2 * (n + 1)) s = .next (failWith .deviceRejected
      { s with attempt := a, txAny := x, crcReg := reg, ph := .rx, rx := rest,
               outs := s.outs ++ List.replicate (n + 1) (.tx s.frame) }) := by
  obtain ⟨-, -, -, hmax, -⟩ := legal_bounds hl
  rw [rxFrames_succ_last, List.append_assoc] at hrx
  obtain ⟨a, x, reg, hruns, hattempt⟩ := run_nacks n hl hal ha hp (by omega) hrx
  have hspent : s.params.maxAttempts ≤ (a + 1).toNat := by
    rw [attempt_succ_toNat (n := s.params.maxAttempts) (by omega) hmax, hattempt, hn]
  obtain ⟨reg', hlast⟩ := run_nack
    (s := { s with
      attempt := a, txAny := x, crcReg := reg, rx := (nackFrame s.params).map RxEvent.byte ++ rest,
      outs := s.outs ++ List.replicate n (.tx s.frame) })
    hl (hal.of_same rfl rfl) ha hp rfl
  rw [retryOrFail_ge _ _ _ (by exact hspent), loadInputs_of_later_nil _ (by exact hal.later)] at hlast
  refine ⟨a + 1, true, reg, (run_trans hruns hlast).trans ?_⟩
  rw [List.replicate_succ', ← List.append_assoc]
  rfl

/-- Events without a frame. -/
theorem not_mem_of_framesIn {outs : List PortEvent} (h : framesIn outs = []) (b : List Byte) :
    PortEvent.tx b ∉ outs := fun hmem =>
  List.ne_nil_of_mem (l := framesIn outs) (List.mem_filterMap.mpr ⟨.tx b, hmem, rfl⟩) h

/-- Settles O52: the NACKs leave the packet as it was, and the ACK takes one packet off those left. -/
theorem nacksThenAckAdvance : Obligations.NacksThenAckAdvance := by
  intro s k rest h hd hlater hw ha hp h0 hk hrx
  have hal : LeftAlone s := ⟨hd, hlater, hw⟩
  rw [List.append_assoc] at hrx
  obtain ⟨a, x, reg, hruns, -⟩ := run_nacks k h.legal hal ha hp (by rw [h0]; simpa using hk) hrx
  obtain ⟨u, hrun, hack, hinv, -⟩ := run_ack (h.run _ hruns) (hal.of_same rfl rfl) ha hp rfl
  obtain ⟨more, houts, hframes, -⟩ := hack.outs
  obtain ⟨-, -, hrest⟩ := hack.env
  obtain ⟨-, -, hfail⟩ := hack.keeps
  have hleft := hack.packetsLeft_succ ((h.run _ hruns).sent ha hp)
  refine ⟨u, more, ?run, ?outs, not_mem_of_framesIn hframes, hrest, hack.fresh.1,
    hinv.cause_failed.mpr hfail, ?left⟩
  case run => exact run_trans hruns hrun
  case outs => rw [houts, List.replicate_succ']; simp [awaiting]
  case left => exact Nat.lt_of_succ_le (Nat.le_of_eq hleft)

/-! ### From the begin request -/

/-- `s` with a session begun over the image `bytes` (R162). -/
def begun (bytes : List Byte) (s : State) : State :=
  { s with st := .starting, ph := .tx, attempt := 0, img := bytes,
           imgSize := BitVec.ofNat 32 bytes.length, imgCrc := crcCompute s.params.crc bytes,
           bytesSent := 0, chunkLen := 0, frame := buildFrame s.params.crc 0x00 [0x00],
           cause := .none, txAny := false, own := true,
           crcReg := crcRun s.params.crc (frameBody 0x00 [0x00]), inp := { s.inp with beginReq := none } }

/-- BEGIN of a session left alone. -/
theorem step_begun {s : State} {bytes : List Byte} (hl : s.params.legal = true) (hal : LeftAlone s)
    (hs : s.st = .idle) (hb : s.inp.beginReq = some (.image bytes)) (hsize : bytes.length ≤ 4294967295) :
    step s = .next (begun bytes s) := by
  rw [beginStartsSession s bytes hl hal.undisturbed hs hb hsize, loadInputs_of_later_nil _ (by exact hal.later),
    begun]

/-- The session it begins is left alone. -/
theorem LeftAlone.begun {s : State} (h : LeftAlone s) (bytes : List Byte) : LeftAlone (begun bytes s) :=
  ⟨h.undisturbed, h.later, h.writes⟩

/-- Settles O53: BEGIN leaves all attempts, and the NACKs use them up. -/
theorem alwaysNackFails : Obligations.AlwaysNackFails := by
  intro s bytes rest h hd hlater hw hs hb hsize hrx
  obtain ⟨-, -, hpos, -⟩ := legal_bounds h.legal
  have hal : LeftAlone s := ⟨hd, hlater, hw⟩
  obtain ⟨n, hn⟩ : ∃ n, s.params.maxAttempts = n + 1 := ⟨_, (Nat.sub_add_cancel hpos).symm⟩
  rw [hn] at hrx ⊢
  obtain ⟨a, x, reg, hrun⟩ := run_nacks_exhausted (s := begun bytes s) n h.legal (hal.begun bytes) rfl rfl
    (hn.trans (by rw [Nat.add_assoc]; exact (Nat.zero_add _).symm)) hrx
  have hall := run_cons (step_begun h.legal hal hs hb hsize) hrun
  rw [Nat.add_comm] at hall
  exact ⟨_, hall, rfl, rfl, rfl, rfl⟩

end Sys2Proof.Machine
end

section
/-! The delivery of an image (42_transfer_session.md R184): the runs in which the Start frame, the Header frame,
each chunk and the End frame are written and acknowledged, and the session put together from them. -/

namespace Sys2Proof.Machine

/-- `k` steps lead from `s` to `u` in a session left alone; they put `events` on the output ports and leave
`rest` in the receive stream. -/
structure Delivers (k : Nat) (s u : State) (rest : List RxEvent) (events : List PortEvent) : Prop where
  run : Host.Core.run Sys2Proof.core k s = .next u
  inv : SessionInv u
  alone : LeftAlone u
  params : u.params = s.params
  img : u.img = s.img
  rx : u.rx = rest
  outs : u.outs = s.outs ++ events

theorem Delivers.trans {k j : Nat} {s u v : State} {r r' : List RxEvent} {e e' : List PortEvent}
    (h : Delivers k s u r e) (h' : Delivers j u v r' e') : Delivers (k + j) s v r' (e ++ e') where
  run := run_trans h.run h'.run
  inv := h'.inv
  alone := h'.alone
  params := h'.params.trans h.params
  img := h'.img.trans h.img
  rx := h'.rx
  outs := by rw [h'.outs, h.outs, List.append_assoc]

/-- The current packet written and acknowledged: its frame, and behind it what ADVANCE puts out. -/
theorem delivers_ack {s : State} {rest : List RxEvent} (h : SessionInv s) (hal : LeftAlone s)
    (ha : s.st.active = true) (hp : s.ph = .tx) (hrx : s.rx = (ackFrame s.params).map RxEvent.byte ++ rest) :
    ∃ u, AckCase (awaiting s) rest u ∧
      ∀ more, u.outs = (awaiting s).outs ++ more → Delivers 2 s u rest (.tx s.frame :: more) := by
  obtain ⟨u, hrun, hack, hinv, hua⟩ := run_ack h hal ha hp hrx
  obtain ⟨-, -, hrest⟩ := hack.env
  obtain ⟨hparams, himg, -⟩ := hack.keeps
  refine ⟨u, hack, fun more houts => ⟨hrun, hinv, hua, hparams, himg, hrest, ?_⟩⟩
  rw [houts, awaiting, List.append_assoc, List.singleton_append]

/-- The frame register holds the frame of the current packet (10_state.md R29). -/
theorem SessionInv.frame_eq {s : State} {i : Instr} (h : SessionInv s) (ha : s.st.active = true)
    (hi : currentPacket s = some i) : s.frame = buildFrame s.params.crc (typeCode i) (payload i) := by
  obtain ⟨j, hj, henc⟩ := h.frame_current ha
  obtain rfl : j = i := Option.some.inj (hj.symm.trans hi)
  exact (encodePacket_eq_some_iff.mp henc).2

/-! ### Start -/

/-- The Start frame acknowledged: the Header is current (R171). -/
theorem delivers_start {s : State} {rest : List RxEvent} (h : SessionInv s) (hal : LeftAlone s)
    (hs : s.st = .starting) (hp : s.ph = .tx) (hrx : s.rx = (ackFrame s.params).map RxEvent.byte ++ rest) :
    ∃ u, Delivers 2 s u rest [.tx (buildFrame s.params.crc Config.typeCommand [Config.codeStart])] ∧
      u.st = .awaitHeaderAck ∧ u.ph = .tx := by
  have ha : s.st.active = true := by rw [hs]; rfl
  have hframe := h.frame_eq (i := .cmdStart) ha (by rw [currentPacket, hs])
  obtain ⟨u, hack, hdel⟩ := delivers_ack h hal ha hp hrx
  rw [hframe] at hdel
  obtain ⟨-, hph⟩ := hack.fresh
  cases hack with
  | header => exact ⟨_, hdel [] (List.append_nil _).symm, rfl, rfl⟩
  | noImage hs' | firstChunk hs' | lastChunk hs' | nextChunk hs' | complete hs' =>
    rw [show s.st = _ from hs'] at hs; cases hs

/-! ### Header and chunks -/

/-- In the data phase of a session: the chunks before `k` are acknowledged, chunk `k` is current, and `m` chunks
are left; none is current where `m` is 0. -/
structure ChunkDue (k m : Nat) (s : State) : Prop where
  ph : s.ph = .tx
  st : s.st = if m = 0 then .awaitEndAck else .sendingData
  sent : s.bytesSent.toNat = min (k * s.params.maxChunk) s.img.length
  total : k + m = ceilDiv s.img.length s.params.maxChunk

/-- The Header payload of the image (30_encoding.md R78). -/
theorem SessionInv.header_payload {s : State} (h : SessionInv s) (ha : s.st.active = true) :
    payload (.header s.imgSize s.imgCrc 0 0) =
      le32 (BitVec.ofNat 32 s.img.length) ++ le32 (crcCompute s.params.crc s.img) ++ zeros 8 := by
  obtain ⟨hsize, hcrc⟩ := h.image ha
  rw [payload_header, ← hsize, hcrc, BitVec.ofNat_toNat, BitVec.setWidth_eq]

/-- The Header frame acknowledged: all chunks are due (R172). -/
theorem delivers_header {s : State} {rest : List RxEvent} (h : SessionInv s) (hal : LeftAlone s)
    (hs : s.st = .awaitHeaderAck) (hp : s.ph = .tx)
    (hrx : s.rx = (ackFrame s.params).map RxEvent.byte ++ rest) :
    ∃ u, Delivers 2 s u rest [.tx (buildFrame s.params.crc Config.typeHeader
        (le32 (BitVec.ofNat 32 s.img.length) ++ le32 (crcCompute s.params.crc s.img) ++ zeros 8))] ∧
      ChunkDue 0 (ceilDiv s.img.length s.params.maxChunk) u := by
  have ha : s.st.active = true := by rw [hs]; rfl
  have hframe := h.frame_eq (i := .header s.imgSize s.imgCrc 0 0) ha (by rw [currentPacket, hs])
  obtain ⟨hsize, -⟩ := h.image ha
  obtain ⟨hsent, -⟩ := h.before_data (.inr hs)
  obtain ⟨hc, -⟩ := legal_bounds h.legal
  have hzero : s.bytesSent.toNat = min (0 * s.params.maxChunk) s.img.length := by
    rw [hsent, Nat.zero_mul, Nat.zero_min]; rfl
  obtain ⟨u, hack, hdel⟩ := delivers_ack h hal ha hp hrx
  rw [hframe, h.header_payload ha] at hdel
  cases hack with
  | noImage _ h0 =>
    have hnone : ceilDiv s.img.length s.params.maxChunk = 0 := by
      rw [← hsize, show s.imgSize = 0 from h0]; exact ceilDiv_zero hc
    exact ⟨_, hdel [] (List.append_nil _).symm, rfl, by rw [if_pos hnone], hzero, Nat.zero_add _⟩
  | firstChunk _ h0 =>
    have hsome : ceilDiv s.img.length s.params.maxChunk ≠ 0 := by
      refine Nat.ne_of_gt ((lt_ceilDiv_iff hc).mpr ?_)
      rw [Nat.zero_mul, ← hsize]
      exact Nat.pos_of_ne_zero fun heq => h0 (BitVec.eq_of_toNat_eq heq)
    exact ⟨_, hdel [] (List.append_nil _).symm, rfl, by rw [if_neg hsome], hzero, Nat.zero_add _⟩
  | header hs' | lastChunk hs' | nextChunk hs' | complete hs' =>
    rw [show s.st = _ from hs'] at hs; cases hs

/-- Chunk `k` with the length that is left of the image (R175). -/
theorem imageChunk_eq_take {c k n : Nat} {img : List Byte} (hn : n = min c (img.length - k * c)) :
    (img.drop (k * c)).take n = imageChunk c img k := by
  rw [imageChunk, hn, ← List.length_drop, List.take_eq_take_iff]
  omega

/-- A chunk acknowledged: its frame and its progress, and the next one is due (R173). -/
theorem delivers_chunk {s : State} {k m : Nat} {rest : List RxEvent} (h : SessionInv s) (hal : LeftAlone s)
    (hd : ChunkDue k (m + 1) s) (hrx : s.rx = (ackFrame s.params).map RxEvent.byte ++ rest) :
    ∃ u, Delivers 2 s u rest (chunkEvents s.params s.img k) ∧ ChunkDue (k + 1) m u := by
  have hs : s.st = .sendingData := hd.st
  have ha : s.st.active = true := by rw [hs]; rfl
  obtain ⟨hsize, -⟩ := h.image ha
  obtain ⟨hc, -⟩ := legal_bounds h.legal
  obtain ⟨hlen, -⟩ := h.chunk hs
  have hlt : k * s.params.maxChunk < s.img.length := (lt_ceilDiv_iff hc).mp (by have := hd.total; omega)
  have hoff : s.bytesSent.toNat = k * s.params.maxChunk := hd.sent.trans (Nat.min_eq_left hlt.le)
  rw [hsize, hoff] at hlen
  have hsent : (s.bytesSent + s.chunkLen.setWidth 32).toNat =
      min ((k + 1) * s.params.maxChunk) s.img.length := by
    obtain ⟨hadd, -⟩ := h.sent_add hs rfl
    rw [hadd, hoff, hlen, Nat.succ_mul]
    omega
  have hmore : m = 0 ↔ s.bytesSent + s.chunkLen.setWidth 32 = s.imgSize := by
    have hnext := lt_ceilDiv_iff (n := s.img.length) (k := k + 1) hc
    have htotal := hd.total
    rw [← BitVec.toNat_inj, hsent, hsize]
    omega
  have hframe := h.frame_eq ha (currentPacket_chunk hs hoff rfl (by omega))
  rw [imageChunk_eq_take hlen] at hframe
  have hevents : [.tx s.frame, .progress (s.bytesSent + s.chunkLen.setWidth 32)] =
      chunkEvents s.params s.img k := by
    rw [chunkEvents, ← hsent, BitVec.ofNat_toNat, BitVec.setWidth_eq, hframe]
    rfl
  have htotal : k + 1 + m = ceilDiv s.img.length s.params.maxChunk := by have := hd.total; omega
  rw [← hevents]
  obtain ⟨u, hack, hdel⟩ := delivers_ack h hal ha hd.ph hrx
  cases hack with
  | lastChunk _ sent hb h0 =>
    subst hb
    exact ⟨_, hdel [_] rfl, rfl, by rw [if_pos (hmore.mpr h0)], hsent, htotal⟩
  | nextChunk _ sent hb h0 =>
    subst hb
    exact ⟨_, hdel [_] rfl, rfl, by rw [if_neg fun hm => h0 (hmore.mp hm)], hsent, htotal⟩
  | header hs' | noImage hs' | firstChunk hs' | complete hs' =>
    rw [show s.st = _ from hs'] at hs; cases hs

/-- All chunks that are left, acknowledged one after another. -/
theorem delivers_chunks {s : State} {k : Nat} (m : Nat) {rest : List RxEvent} (h : SessionInv s)
    (hal : LeftAlone s) (hd : ChunkDue k m s) (hrx : s.rx = rxFrames m (ackFrame s.params) ++ rest) :
    ∃ u, Delivers (2 * m) s u rest ((List.range' k m).flatMap (chunkEvents s.params s.img)) ∧
      ChunkDue (k + m) 0 u := by
  induction m generalizing s k with
  | zero =>
    exact ⟨s, ⟨rfl, h, hal, rfl, rfl, hrx, (List.append_nil _).symm⟩, hd⟩
  | succ m ih =>
    rw [rxFrames_succ, List.append_assoc] at hrx
    obtain ⟨u, hdel, hnext⟩ := delivers_chunk h hal hd hrx
    obtain ⟨v, hdels, hlast⟩ := ih hdel.inv hdel.alone hnext (by rw [hdel.rx, hdel.params])
    rw [hdel.params, hdel.img] at hdels
    have hall := hdel.trans hdels
    rw [show 2 + 2 * m = 2 * (m + 1) by omega] at hall
    rw [show k + 1 + m = k + (m + 1) by omega] at hlast
    exact ⟨v, hall, hlast⟩

/-! ### End -/

/-- The End frame acknowledged: the session is complete (R174). -/
theorem delivers_end {s : State} {rest : List RxEvent} (h : SessionInv s) (hal : LeftAlone s)
    (hs : s.st = .awaitEndAck) (hp : s.ph = .tx)
    (hrx : s.rx = (ackFrame s.params).map RxEvent.byte ++ rest) :
    ∃ u, Delivers 2 s u rest
        [.tx (buildFrame s.params.crc Config.typeCommand [Config.codeEnd]), .result .complete] ∧
      u.st = .complete ∧ u.bytesSent.toNat = s.img.length := by
  have ha : s.st.active = true := by rw [hs]; rfl
  have hframe := h.frame_eq (i := .cmdEnd) ha (by rw [currentPacket, hs])
  obtain ⟨hsize, -⟩ := h.image ha
  obtain ⟨u, hack, hdel⟩ := delivers_ack h hal ha hp hrx
  rw [hframe] at hdel
  cases hack with
  | complete =>
    exact ⟨_, hdel [_] rfl, rfl, by rw [← hsize, ← h.after_data (.inl hs)]; rfl⟩
  | header hs' | noImage hs' | firstChunk hs' | lastChunk hs' | nextChunk hs' =>
    rw [show s.st = _ from hs'] at hs; cases hs

/-- Settles O54: BEGIN, then Start, Header, the chunks and End, each written once and acknowledged. -/
theorem acknowledgedSessionDeliversImage : Obligations.AcknowledgedSessionDeliversImage := by
  intro s bytes rest h hd hlater hw hs hb hsize n hrx
  have hal : LeftAlone s := ⟨hd, hlater, hw⟩
  have hbegin := step_begun h.legal hal hs hb hsize
  have hframes : rxFrames n (ackFrame s.params) ++ rest =
      (ackFrame s.params).map RxEvent.byte ++ ((ackFrame s.params).map RxEvent.byte ++
        (rxFrames (ceilDiv bytes.length s.params.maxChunk) (ackFrame s.params) ++
          ((ackFrame s.params).map RxEvent.byte ++ rest))) := by
    rw [show n = ceilDiv bytes.length s.params.maxChunk + 1 + 1 + 1 from Nat.add_comm .., rxFrames_succ,
      rxFrames_succ, rxFrames_succ_last]
    simp only [List.append_assoc]
  rw [hframes] at hrx
  obtain ⟨t1, d1, hst1, hp1⟩ := delivers_start (s := begun bytes s)
    (stepKeepsSessionInvariant _ _ h hbegin) (hal.begun bytes) rfl rfl hrx
  obtain ⟨t2, d2, hdue⟩ := delivers_header d1.inv d1.alone hst1 hp1 (by rw [d1.rx, d1.params]; rfl)
  rw [d1.params, d1.img] at d2 hdue
  have d12 := d1.trans d2
  obtain ⟨t3, d3, hend⟩ := delivers_chunks _ d2.inv d2.alone hdue (by rw [d12.rx, d12.params]; rfl)
  rw [d12.params, d12.img] at d3
  have d123 := d12.trans d3
  obtain ⟨t4, d4, hst4, hsent⟩ := delivers_end d3.inv d3.alone hend.st hend.ph
    (by rw [d123.rx, d123.params]; rfl)
  rw [d123.params] at d4
  have d1234 := d123.trans d4
  have hrun := run_cons hbegin d1234.run
  rw [d123.img] at hsent
  refine ⟨t4, ?run, hst4, d4.inv.cause_failed.mpr (by rw [hst4]; nofun), ?own, d4.rx, hsent, ?outs⟩
  case run =>
    have hcount : 1 + 2 * n = 2 + 2 + 2 * ceilDiv bytes.length s.params.maxChunk + 2 + 1 := by
      show 1 + 2 * (3 + ceilDiv bytes.length s.params.maxChunk) = _
      omega
    rw [hcount]
    exact hrun
  case own => rw [d4.inv.own_active, hst4]; rfl
  case outs =>
    rw [d1234.outs, deliveryEvents, List.range_eq_range']
    rfl

end Sys2Proof.Machine
end
